-- ==== Sys2Proof/Word.lean ====
section
/-! DEFINITION. The word types: registers and addresses are 32 bits (spec 10_state R11, R23; XLEN of
00_scope R4), T32 halfwords 16 (20_memory R32), memory is addressed by bytes (20_memory R31). -/

namespace Sys2Proof

/-- A register value, an address or an A32 instruction word: 32 bits (R4 `XLEN`, R11; log 25). -/
abbrev Word := BitVec 32

/-- A T32 halfword (R32). -/
abbrev Half := BitVec 16

/-- A byte of instruction memory (R31). -/
abbrev Byte := BitVec 8

end Sys2Proof
end

