-- ==== Sys2Proof/Syntax.lean ====
section
/-! DEFINITION. The syntax: condition codes, the 33 register arguments, the 41 register names, the four
encodings, and `Instr` with one constructor for each row of spec/opcode_table.json (the 31 CONSTRAINED
UNPREDICTABLE argument rows, which share one mnemonic, share the constructor that carries their code;
log 15). -/

namespace Sys2Proof

/-- Which instruction set is being decoded (10_state R29, 30_encoding R53). -/
inductive ISet where
  | a32
  | t32
  deriving DecidableEq, Repr

/-- The fifteen conditions of 30_encoding R57; `1111` is no condition (R55). -/
inductive Cond where
  | eq | ne | cs | cc | mi | pl | vs | vc | hi | ls | ge | lt | gt | le | al
  deriving DecidableEq, Repr

/-- A general-purpose register field `Rd` or `Rn`: a number 0..15 (R49). Number 15 is refused by the
access check, not by the syntax (R52). -/
abbrev GprNum := BitVec 4

/-- The 6-bit register argument `R : SYSm<4:0>` (R40). -/
structure ArgCode where
  /-- The `R` bit: 0 a register that is no SPSR, 1 an SPSR copy (R41). -/
  r : BitVec 1
  /-- `SYSm<4:0>`. -/
  sysm : BitVec 5
  deriving DecidableEq, Repr

/-- The 33 registers a banked register argument can name: groups (b) to (g) of 10_state R10. -/
inductive BankedReg where
  | r8_usr | r9_usr | r10_usr | r11_usr | r12_usr
  | r8_fiq | r9_fiq | r10_fiq | r11_fiq | r12_fiq
  | sp_usr | sp_hyp | sp_svc | sp_abt | sp_und | sp_mon | sp_irq | sp_fiq
  | lr_usr | lr_svc | lr_abt | lr_und | lr_mon | lr_irq | lr_fiq
  | spsr_hyp | spsr_svc | spsr_abt | spsr_und | spsr_mon | spsr_irq | spsr_fiq
  | elr_hyp
  deriving DecidableEq, Repr

/-- The 41 named registers of 10_state R10: `low i` is `R<i>_usr` of group (a), which has one copy shared by
every mode (R12); `banked b` is one of the 33 others. -/
inductive Reg where
  | low (i : Fin 8)
  | banked (b : BankedReg)
  deriving DecidableEq, Repr

/-- The two directions of transfer (41_mrs R80, 42_msr R90). -/
inductive Direction where
  /-- banked register to `Rd` -/
  | mrs
  /-- `Rn` to banked register -/
  | msr
  deriving DecidableEq, Repr

/-- What one of the four encodings holds beside the register argument: the result of step 1 of the decode
(30_encoding R58) less `R : SYSm`. The `sb…` fields are the should-be bits as found in the word (R50), so that
no bit of a word is lost. -/
inductive Form where
  /-- A32 `MRS (banked register)`, encoding A1 (R45). -/
  | mrsA1 (cond : Cond) (rd : GprNum) (sbz11to10 : BitVec 2) (sbz3to0 : BitVec 4)
  /-- A32 `MSR (banked register)`, encoding A1 (R46). -/
  | msrA1 (cond : Cond) (rn : GprNum) (sbo15to12 : BitVec 4) (sbz11to10 : BitVec 2)
  /-- T32 `MRS (banked register)`, encoding T1 (R47). -/
  | mrsT1 (rd : GprNum) (sbz13 : BitVec 1) (sbz7to6 : BitVec 2) (sbz3to0 : BitVec 4)
  /-- T32 `MSR (banked register)`, encoding T1 (R48). -/
  | msrT1 (rn : GprNum) (sbz13 : BitVec 1) (sbz7to6 : BitVec 2) (sbz3to0 : BitVec 4)
  deriving DecidableEq, Repr

/-- One constructor for each row of spec/opcode_table.json. The first four are the instruction-word rows: what
step 1 of the decode (30_encoding R58) reads from a word, its argument still the six bits `R : SYSm`. The others
are the argument rows of step 2: a transfer, of any of the four encodings, whose argument that row is. -/
inductive Instr where
  /-- Row `MRS (banked register)`, format A32 (R45). -/
  | mrsA1 (cond : Cond) (rd : GprNum) (arg : ArgCode) (sbz11to10 : BitVec 2) (sbz3to0 : BitVec 4)
  /-- Row `MSR (banked register)`, format A32 (R46). -/
  | msrA1 (cond : Cond) (rn : GprNum) (arg : ArgCode) (sbo15to12 : BitVec 4) (sbz11to10 : BitVec 2)
  /-- Row `MRS (banked register)`, format T32 (R47). -/
  | mrsT1 (rd : GprNum) (arg : ArgCode) (sbz13 : BitVec 1) (sbz7to6 : BitVec 2) (sbz3to0 : BitVec 4)
  /-- Row `MSR (banked register)`, format T32 (R48). -/
  | msrT1 (rn : GprNum) (arg : ArgCode) (sbz13 : BitVec 1) (sbz7to6 : BitVec 2) (sbz3to0 : BitVec 4)
  /-- Argument row `R8_usr`: `R` = 0, `SYSm` = `00000` (R42). -/
  | argR8Usr (form : Form)
  /-- Argument row `R9_usr`: `R` = 0, `SYSm` = `00001` (R42). -/
  | argR9Usr (form : Form)
  /-- Argument row `R10_usr`: `R` = 0, `SYSm` = `00010` (R42). -/
  | argR10Usr (form : Form)
  /-- Argument row `R11_usr`: `R` = 0, `SYSm` = `00011` (R42). -/
  | argR11Usr (form : Form)
  /-- Argument row `R12_usr`: `R` = 0, `SYSm` = `00100` (R42). -/
  | argR12Usr (form : Form)
  /-- Argument row `SP_usr`: `R` = 0, `SYSm` = `00101` (R42). -/
  | argSpUsr (form : Form)
  /-- Argument row `LR_usr`: `R` = 0, `SYSm` = `00110` (R42). -/
  | argLrUsr (form : Form)
  /-- Argument row `R8_fiq`: `R` = 0, `SYSm` = `01000` (R42). -/
  | argR8Fiq (form : Form)
  /-- Argument row `R9_fiq`: `R` = 0, `SYSm` = `01001` (R42). -/
  | argR9Fiq (form : Form)
  /-- Argument row `R10_fiq`: `R` = 0, `SYSm` = `01010` (R42). -/
  | argR10Fiq (form : Form)
  /-- Argument row `R11_fiq`: `R` = 0, `SYSm` = `01011` (R42). -/
  | argR11Fiq (form : Form)
  /-- Argument row `R12_fiq`: `R` = 0, `SYSm` = `01100` (R42). -/
  | argR12Fiq (form : Form)
  /-- Argument row `SP_fiq`: `R` = 0, `SYSm` = `01101` (R42). -/
  | argSpFiq (form : Form)
  /-- Argument row `LR_fiq`: `R` = 0, `SYSm` = `01110` (R42). -/
  | argLrFiq (form : Form)
  /-- Argument row `LR_irq`: `R` = 0, `SYSm` = `10000` (R42). -/
  | argLrIrq (form : Form)
  /-- Argument row `SP_irq`: `R` = 0, `SYSm` = `10001` (R42). -/
  | argSpIrq (form : Form)
  /-- Argument row `LR_svc`: `R` = 0, `SYSm` = `10010` (R42). -/
  | argLrSvc (form : Form)
  /-- Argument row `SP_svc`: `R` = 0, `SYSm` = `10011` (R42). -/
  | argSpSvc (form : Form)
  /-- Argument row `LR_abt`: `R` = 0, `SYSm` = `10100` (R42). -/
  | argLrAbt (form : Form)
  /-- Argument row `SP_abt`: `R` = 0, `SYSm` = `10101` (R42). -/
  | argSpAbt (form : Form)
  /-- Argument row `LR_und`: `R` = 0, `SYSm` = `10110` (R42). -/
  | argLrUnd (form : Form)
  /-- Argument row `SP_und`: `R` = 0, `SYSm` = `10111` (R42). -/
  | argSpUnd (form : Form)
  /-- Argument row `LR_mon`: `R` = 0, `SYSm` = `11100` (R42). -/
  | argLrMon (form : Form)
  /-- Argument row `SP_mon`: `R` = 0, `SYSm` = `11101` (R42). -/
  | argSpMon (form : Form)
  /-- Argument row `ELR_hyp`: `R` = 0, `SYSm` = `11110` (R42). -/
  | argElrHyp (form : Form)
  /-- Argument row `SP_hyp`: `R` = 0, `SYSm` = `11111` (R42). -/
  | argSpHyp (form : Form)
  /-- Argument row `SPSR_fiq`: `R` = 1, `SYSm` = `01110` (R43). -/
  | argSpsrFiq (form : Form)
  /-- Argument row `SPSR_irq`: `R` = 1, `SYSm` = `10000` (R43). -/
  | argSpsrIrq (form : Form)
  /-- Argument row `SPSR_svc`: `R` = 1, `SYSm` = `10010` (R43). -/
  | argSpsrSvc (form : Form)
  /-- Argument row `SPSR_abt`: `R` = 1, `SYSm` = `10100` (R43). -/
  | argSpsrAbt (form : Form)
  /-- Argument row `SPSR_und`: `R` = 1, `SYSm` = `10110` (R43). -/
  | argSpsrUnd (form : Form)
  /-- Argument row `SPSR_mon`: `R` = 1, `SYSm` = `11100` (R43). -/
  | argSpsrMon (form : Form)
  /-- Argument row `SPSR_hyp`: `R` = 1, `SYSm` = `11110` (R43). -/
  | argSpsrHyp (form : Form)
  /-- The argument rows marked CONSTRAINED UNPREDICTABLE (R54); `arg` is the row's code. -/
  | argConstrainedUnpredictable (arg : ArgCode) (form : Form)
  deriving DecidableEq, Repr

/-- Why bytes do not decode to an instruction. Words outside the four rows are NotInScope (30_encoding R55). -/
inductive DecodeError where
  /-- An A32 word that matches neither R45 nor R46, or has `cond` = `1111` (R55). -/
  | notInScopeA32 (word : Word)
  /-- A 32-bit T32 instruction `hw1 : hw2` that matches neither R47 nor R48 (R55). -/
  | notInScopeT32 (word : Word)
  /-- A 16-bit T32 instruction, told by `hw1<15:11>` (R53, R55), and named by that halfword alone (log 17). -/
  | notInScopeT16 (hw1 : Half)
  /-- Fewer bytes than the instruction has. -/
  | truncated
  deriving DecidableEq, Repr

end Sys2Proof
end

