-- ==== Sys2Proof/Decode.lean ====
section
/-! DEFINITION. The decoder and after it the encoder, both from spec/30_encoding: step 1 reads a word as one of
the four encodings (R45 to R48), step 2 looks the six bits `R : SYSm` up in Tables F5-116 and F5-117 (R42 to
R44). Total on any bytes: what matches no row is refused by name (R55). -/

namespace Sys2Proof

/-! ### The register argument (R40 to R44) -/

/-- `SYSm<2:0>` as a row number of the two tables. -/
def ArgCode.row (c : ArgCode) : Nat := (c.sysm.extractLsb' 0 3).toNat

/-- `SYSm<4:3>` as a column number of the two tables. -/
def ArgCode.column (c : ArgCode) : Nat := (c.sysm.extractLsb' 3 2).toNat

/-- `DecodeBankedArg(R, SYSm)`, the closed form of R44; `none` is the source's CONSTRAINED UNPREDICTABLE. -/
def decodeBankedArg (c : ArgCode) : Option BankedReg :=
  if c.r = 0 then
    match c.column with
    | 0b00 => [.r8_usr, .r9_usr, .r10_usr, .r11_usr, .r12_usr, .sp_usr, .lr_usr][c.row]?
    | 0b01 => [.r8_fiq, .r9_fiq, .r10_fiq, .r11_fiq, .r12_fiq, .sp_fiq, .lr_fiq][c.row]?
    | 0b10 =>
      let m := (c.sysm.extractLsb' 1 2).toNat
      if c.sysm.extractLsb' 0 1 = 0 then [.lr_irq, .lr_svc, .lr_abt, .lr_und][m]?
      else [.sp_irq, .sp_svc, .sp_abt, .sp_und][m]?
    | _ =>
      match c.row with
      | 0b100 => some .lr_mon
      | 0b101 => some .sp_mon
      | 0b110 => some .elr_hyp
      | 0b111 => some .sp_hyp
      | _ => none
  else
    match c.sysm.toNat with
    | 0b01110 => some .spsr_fiq
    | 0b10000 => some .spsr_irq
    | 0b10010 => some .spsr_svc
    | 0b10100 => some .spsr_abt
    | 0b10110 => some .spsr_und
    | 0b11100 => some .spsr_mon
    | 0b11110 => some .spsr_hyp
    | _ => none

/-- Table F5-116, `R` = 0: rows `SYSm<2:0>`, columns `SYSm<4:3>` (R42). -/
def tableF5_116 : List (List (Option BankedReg)) :=
  [[some .r8_usr,  some .r8_fiq,  some .lr_irq, none],
   [some .r9_usr,  some .r9_fiq,  some .sp_irq, none],
   [some .r10_usr, some .r10_fiq, some .lr_svc, none],
   [some .r11_usr, some .r11_fiq, some .sp_svc, none],
   [some .r12_usr, some .r12_fiq, some .lr_abt, some .lr_mon],
   [some .sp_usr,  some .sp_fiq,  some .sp_abt, some .sp_mon],
   [some .lr_usr,  some .lr_fiq,  some .lr_und, some .elr_hyp],
   [none,          none,          some .sp_und, some .sp_hyp]]

/-- Table F5-117, `R` = 1: rows `SYSm<2:0>`, columns `SYSm<4:3>` (R43, with the labels of conflict C2). -/
def tableF5_117 : List (List (Option BankedReg)) :=
  [[none, none,           some .spsr_irq, none],
   [none, none,           none,           none],
   [none, none,           some .spsr_svc, none],
   [none, none,           none,           none],
   [none, none,           some .spsr_abt, some .spsr_mon],
   [none, none,           none,           none],
   [none, some .spsr_fiq, some .spsr_und, some .spsr_hyp],
   [none, none,           none,           none]]

/-- The cell of the two tables a code selects (R41 to R43). -/
def bankedArgCell (c : ArgCode) : Option BankedReg :=
  let t := if c.r = 0 then tableF5_116 else tableF5_117
  ((t[c.row]?.getD [])[c.column]?).getD none

/-- The code an assembler writes for a register: the inverse of R44 (R56), read off Tables F5-116 and F5-117. -/
def encodeBankedArg : BankedReg → ArgCode
  | .r8_usr => ⟨0, 0b00000⟩
  | .r9_usr => ⟨0, 0b00001⟩
  | .r10_usr => ⟨0, 0b00010⟩
  | .r11_usr => ⟨0, 0b00011⟩
  | .r12_usr => ⟨0, 0b00100⟩
  | .sp_usr => ⟨0, 0b00101⟩
  | .lr_usr => ⟨0, 0b00110⟩
  | .r8_fiq => ⟨0, 0b01000⟩
  | .r9_fiq => ⟨0, 0b01001⟩
  | .r10_fiq => ⟨0, 0b01010⟩
  | .r11_fiq => ⟨0, 0b01011⟩
  | .r12_fiq => ⟨0, 0b01100⟩
  | .sp_fiq => ⟨0, 0b01101⟩
  | .lr_fiq => ⟨0, 0b01110⟩
  | .lr_irq => ⟨0, 0b10000⟩
  | .sp_irq => ⟨0, 0b10001⟩
  | .lr_svc => ⟨0, 0b10010⟩
  | .sp_svc => ⟨0, 0b10011⟩
  | .lr_abt => ⟨0, 0b10100⟩
  | .sp_abt => ⟨0, 0b10101⟩
  | .lr_und => ⟨0, 0b10110⟩
  | .sp_und => ⟨0, 0b10111⟩
  | .lr_mon => ⟨0, 0b11100⟩
  | .sp_mon => ⟨0, 0b11101⟩
  | .elr_hyp => ⟨0, 0b11110⟩
  | .sp_hyp => ⟨0, 0b11111⟩
  | .spsr_fiq => ⟨1, 0b01110⟩
  | .spsr_irq => ⟨1, 0b10000⟩
  | .spsr_svc => ⟨1, 0b10010⟩
  | .spsr_abt => ⟨1, 0b10100⟩
  | .spsr_und => ⟨1, 0b10110⟩
  | .spsr_mon => ⟨1, 0b11100⟩
  | .spsr_hyp => ⟨1, 0b11110⟩

/-! ### The two halves of an instruction: its encoding and its argument -/

/-- The encoding an instruction has, with every field but the register argument. -/
def Instr.form : Instr → Form
  | .mrsA1 cond rd _ hi lo => .mrsA1 cond rd hi lo
  | .msrA1 cond rn _ sbo sbz => .msrA1 cond rn sbo sbz
  | .mrsT1 rd _ a b c => .mrsT1 rd a b c
  | .msrT1 rn _ a b c => .msrT1 rn a b c
  | .argR8Usr f => f
  | .argR9Usr f => f
  | .argR10Usr f => f
  | .argR11Usr f => f
  | .argR12Usr f => f
  | .argSpUsr f => f
  | .argLrUsr f => f
  | .argR8Fiq f => f
  | .argR9Fiq f => f
  | .argR10Fiq f => f
  | .argR11Fiq f => f
  | .argR12Fiq f => f
  | .argSpFiq f => f
  | .argLrFiq f => f
  | .argLrIrq f => f
  | .argSpIrq f => f
  | .argLrSvc f => f
  | .argSpSvc f => f
  | .argLrAbt f => f
  | .argSpAbt f => f
  | .argLrUnd f => f
  | .argSpUnd f => f
  | .argLrMon f => f
  | .argSpMon f => f
  | .argElrHyp f => f
  | .argSpHyp f => f
  | .argSpsrFiq f => f
  | .argSpsrIrq f => f
  | .argSpsrSvc f => f
  | .argSpsrAbt f => f
  | .argSpsrUnd f => f
  | .argSpsrMon f => f
  | .argSpsrHyp f => f
  | .argConstrainedUnpredictable _ f => f

/-- The register argument `R : SYSm` of an instruction; an argument row's is the row's own (R42, R43). -/
def Instr.argument : Instr → ArgCode
  | .mrsA1 _ _ arg _ _ => arg
  | .msrA1 _ _ arg _ _ => arg
  | .mrsT1 _ arg _ _ _ => arg
  | .msrT1 _ arg _ _ _ => arg
  | .argR8Usr _ => ⟨0, 0b00000⟩
  | .argR9Usr _ => ⟨0, 0b00001⟩
  | .argR10Usr _ => ⟨0, 0b00010⟩
  | .argR11Usr _ => ⟨0, 0b00011⟩
  | .argR12Usr _ => ⟨0, 0b00100⟩
  | .argSpUsr _ => ⟨0, 0b00101⟩
  | .argLrUsr _ => ⟨0, 0b00110⟩
  | .argR8Fiq _ => ⟨0, 0b01000⟩
  | .argR9Fiq _ => ⟨0, 0b01001⟩
  | .argR10Fiq _ => ⟨0, 0b01010⟩
  | .argR11Fiq _ => ⟨0, 0b01011⟩
  | .argR12Fiq _ => ⟨0, 0b01100⟩
  | .argSpFiq _ => ⟨0, 0b01101⟩
  | .argLrFiq _ => ⟨0, 0b01110⟩
  | .argLrIrq _ => ⟨0, 0b10000⟩
  | .argSpIrq _ => ⟨0, 0b10001⟩
  | .argLrSvc _ => ⟨0, 0b10010⟩
  | .argSpSvc _ => ⟨0, 0b10011⟩
  | .argLrAbt _ => ⟨0, 0b10100⟩
  | .argSpAbt _ => ⟨0, 0b10101⟩
  | .argLrUnd _ => ⟨0, 0b10110⟩
  | .argSpUnd _ => ⟨0, 0b10111⟩
  | .argLrMon _ => ⟨0, 0b11100⟩
  | .argSpMon _ => ⟨0, 0b11101⟩
  | .argElrHyp _ => ⟨0, 0b11110⟩
  | .argSpHyp _ => ⟨0, 0b11111⟩
  | .argSpsrFiq _ => ⟨1, 0b01110⟩
  | .argSpsrIrq _ => ⟨1, 0b10000⟩
  | .argSpsrSvc _ => ⟨1, 0b10010⟩
  | .argSpsrAbt _ => ⟨1, 0b10100⟩
  | .argSpsrUnd _ => ⟨1, 0b10110⟩
  | .argSpsrMon _ => ⟨1, 0b11100⟩
  | .argSpsrHyp _ => ⟨1, 0b11110⟩
  | .argConstrainedUnpredictable arg _ => arg

/-- The instruction-word row with this encoding and this argument. -/
def Instr.ofWord (f : Form) (arg : ArgCode) : Instr :=
  match f with
  | .mrsA1 cond rd hi lo => .mrsA1 cond rd arg hi lo
  | .msrA1 cond rn sbo sbz => .msrA1 cond rn arg sbo sbz
  | .mrsT1 rd a b c => .mrsT1 rd arg a b c
  | .msrT1 rn a b c => .msrT1 rn arg a b c

/-- The argument row that names this register. -/
def Instr.ofBanked (f : Form) : BankedReg → Instr
  | .r8_usr => .argR8Usr f
  | .r9_usr => .argR9Usr f
  | .r10_usr => .argR10Usr f
  | .r11_usr => .argR11Usr f
  | .r12_usr => .argR12Usr f
  | .r8_fiq => .argR8Fiq f
  | .r9_fiq => .argR9Fiq f
  | .r10_fiq => .argR10Fiq f
  | .r11_fiq => .argR11Fiq f
  | .r12_fiq => .argR12Fiq f
  | .sp_usr => .argSpUsr f
  | .sp_hyp => .argSpHyp f
  | .sp_svc => .argSpSvc f
  | .sp_abt => .argSpAbt f
  | .sp_und => .argSpUnd f
  | .sp_mon => .argSpMon f
  | .sp_irq => .argSpIrq f
  | .sp_fiq => .argSpFiq f
  | .lr_usr => .argLrUsr f
  | .lr_svc => .argLrSvc f
  | .lr_abt => .argLrAbt f
  | .lr_und => .argLrUnd f
  | .lr_mon => .argLrMon f
  | .lr_irq => .argLrIrq f
  | .lr_fiq => .argLrFiq f
  | .spsr_hyp => .argSpsrHyp f
  | .spsr_svc => .argSpsrSvc f
  | .spsr_abt => .argSpsrAbt f
  | .spsr_und => .argSpsrUnd f
  | .spsr_mon => .argSpsrMon f
  | .spsr_irq => .argSpsrIrq f
  | .spsr_fiq => .argSpsrFiq f
  | .elr_hyp => .argElrHyp f

/-- Step 2 of the decode (R58): the argument row of a code. -/
def Instr.ofArgument (f : Form) (arg : ArgCode) : Instr :=
  match decodeBankedArg arg with
  | some reg => .ofBanked f reg
  | none => .argConstrainedUnpredictable arg f

/-- An instruction taken through step 2 of the decode: the argument row its code selects (R58). -/
def Instr.resolve (i : Instr) : Instr := .ofArgument i.form i.argument

/-- An instruction as its word row, the argument put back to six bits. -/
def Instr.assemble (i : Instr) : Instr := .ofWord i.form i.argument

/-- The instruction set an encoding belongs to. -/
def Form.iset : Form → ISet
  | .mrsA1 .. => .a32
  | .msrA1 .. => .a32
  | .mrsT1 .. => .t32
  | .msrT1 .. => .t32

/-- The should-be bits have the values of R45 to R48. -/
def Form.shouldBeOk : Form → Bool
  | .mrsA1 _ _ hi lo => hi == 0 && lo == 0
  | .msrA1 _ _ sbo sbz => sbo == 0b1111 && sbz == 0
  | .mrsT1 _ a b c => a == 0 && b == 0 && c == 0
  | .msrT1 _ a b c => a == 0 && b == 0 && c == 0

/-- `Rd` or `Rn`: the general-purpose register number of an encoding. -/
def Form.gpr : Form → GprNum
  | .mrsA1 _ rd _ _ => rd
  | .msrA1 _ rn _ _ => rn
  | .mrsT1 rd _ _ _ => rd
  | .msrT1 rn _ _ _ => rn

/-- The direction of an encoding's transfer (R80, R90). -/
def Form.direction : Form → Direction
  | .mrsA1 .. => .mrs
  | .msrA1 .. => .msr
  | .mrsT1 .. => .mrs
  | .msrT1 .. => .msr

/-! ### Decoding -/

/-- The condition of bits 31:28; `1111` is not a condition (R57). -/
def Cond.ofBits (b : BitVec 4) : Option Cond :=
  match b.toNat with
  | 0b0000 => some .eq
  | 0b0001 => some .ne
  | 0b0010 => some .cs
  | 0b0011 => some .cc
  | 0b0100 => some .mi
  | 0b0101 => some .pl
  | 0b0110 => some .vs
  | 0b0111 => some .vc
  | 0b1000 => some .hi
  | 0b1001 => some .ls
  | 0b1010 => some .ge
  | 0b1011 => some .lt
  | 0b1100 => some .gt
  | 0b1101 => some .le
  | 0b1110 => some .al
  | _ => none

/-- The four bits of a condition (R57). -/
def Cond.bits : Cond → BitVec 4
  | .eq => 0b0000
  | .ne => 0b0001
  | .cs => 0b0010
  | .cc => 0b0011
  | .mi => 0b0100
  | .pl => 0b0101
  | .vs => 0b0110
  | .vc => 0b0111
  | .hi => 0b1000
  | .ls => 0b1001
  | .ge => 0b1010
  | .lt => 0b1011
  | .gt => 0b1100
  | .le => 0b1101
  | .al => 0b1110

/-- A word matches a row's fixed bits: the row's mask and match of R45 to R48. -/
def matchesRow (mask value w : Word) : Bool := w &&& mask == value

/-- `SYSm = M : M1`, with the `R` bit (R40, R49). -/
def argOfFields (r m : BitVec 1) (m1 : BitVec 4) : ArgCode := ⟨r, m ++ m1⟩

/-- Step 1 of the decode for an A32 word (R45, R46, R55, R58; log 13). -/
def decodeA32 (w : Word) : Except DecodeError Instr :=
  match Cond.ofBits (w.extractLsb' 28 4) with
  | none => .error (.notInScopeA32 w)
  | some cond =>
    let arg := argOfFields (w.extractLsb' 22 1) (w.extractLsb' 8 1) (w.extractLsb' 16 4)
    if matchesRow 0x0FB002F0 0x01000200 w then
      .ok (.mrsA1 cond (w.extractLsb' 12 4) arg (w.extractLsb' 10 2) (w.extractLsb' 0 4))
    else if matchesRow 0x0FB002F0 0x01200200 w then
      .ok (.msrA1 cond (w.extractLsb' 0 4) arg (w.extractLsb' 12 4) (w.extractLsb' 10 2))
    else .error (.notInScopeA32 w)

/-- Step 1 of the decode for a 32-bit T32 instruction written `hw1 : hw2` (R47, R48, R55, R58; log 13). `M1` and
the general-purpose register field swap places between the two. -/
def decodeT32 (w : Word) : Except DecodeError Instr :=
  if matchesRow 0xFFE0D020 0xF3E08020 w then
    .ok (.mrsT1 (w.extractLsb' 8 4)
      (argOfFields (w.extractLsb' 20 1) (w.extractLsb' 4 1) (w.extractLsb' 16 4))
      (w.extractLsb' 13 1) (w.extractLsb' 6 2) (w.extractLsb' 0 4))
  else if matchesRow 0xFFE0D020 0xF3808020 w then
    .ok (.msrT1 (w.extractLsb' 16 4)
      (argOfFields (w.extractLsb' 20 1) (w.extractLsb' 4 1) (w.extractLsb' 8 4))
      (w.extractLsb' 13 1) (w.extractLsb' 6 2) (w.extractLsb' 0 4))
  else .error (.notInScopeT32 w)

/-- A T32 halfword that begins a 32-bit instruction: `hw1<15:11>` is `11101`, `11110` or `11111` (R53). -/
def isT32Wide (hw1 : Half) : Bool :=
  let top := hw1.extractLsb' 11 5
  top == 0b11101 || top == 0b11110 || top == 0b11111

/-- A field's bits at their place in a 32-bit word. -/
def placed {n : Nat} (v : BitVec n) (lo : Nat) : Word := v.setWidth 32 <<< lo

/-- A little-endian halfword, the byte at the lower address first (R32). -/
def halfOfBytes (b0 b1 : Byte) : Half := b0.setWidth 16 ||| (b1.setWidth 16 <<< 8)

/-- A little-endian word, the byte at the lowest address first (R31). -/
def wordOfBytes (b0 b1 b2 b3 : Byte) : Word := placed b0 0 ||| placed b1 8 ||| placed b2 16 ||| placed b3 24

/-- A 32-bit T32 instruction written `hw1 : hw2`, `hw1` in bits 31:16 (R32). -/
def wordOfHalves (hw1 hw2 : Half) : Word := placed hw1 16 ||| placed hw2 0

/-- The decoder: the bytes of an instruction in address order, in the instruction set being decoded (R31, R32,
R53, R55). Bytes after the instruction are not looked at. -/
def decode (set : ISet) (bytes : List Byte) : Except DecodeError Instr :=
  match set, bytes with
  | .a32, b0 :: b1 :: b2 :: b3 :: _ => decodeA32 (wordOfBytes b0 b1 b2 b3)
  | .t32, b0 :: b1 :: rest =>
    let hw1 := halfOfBytes b0 b1
    if isT32Wide hw1 then
      match rest with
      | b2 :: b3 :: _ => decodeT32 (wordOfHalves hw1 (halfOfBytes b2 b3))
      | _ => .error .truncated
    else .error (.notInScopeT16 hw1)
  | _, _ => .error .truncated

/-! ### Encoding -/

/-- The 32 bits of an instruction, each field of the layouts of R45 to R48 at its place over the row's fixed bits
(the closed forms of 95_test_vectors 2.2, with the should-be bits as fields); a T32 instruction is written
`hw1 : hw2` (R32). An argument row's word is that of its encoding with the row's code. -/
def encode (i : Instr) : Word :=
  let r := placed i.argument.r
  let m := placed (i.argument.sysm.extractLsb' 4 1)
  let m1 := placed (i.argument.sysm.extractLsb' 0 4)
  match i.form with
  | .mrsA1 cond rd hi lo =>
    0x01000200 ||| placed cond.bits 28 ||| r 22 ||| m1 16 ||| placed rd 12 ||| placed hi 10 ||| m 8 ||| placed lo 0
  | .msrA1 cond rn sbo sbz =>
    0x01200200 ||| placed cond.bits 28 ||| r 22 ||| m1 16 ||| placed sbo 12 ||| placed sbz 10 ||| m 8 ||| placed rn 0
  | .mrsT1 rd a b c =>
    0xF3E08020 ||| r 20 ||| m1 16 ||| placed a 13 ||| placed rd 8 ||| placed b 6 ||| m 4 ||| placed c 0
  | .msrT1 rn a b c =>
    0xF3808020 ||| r 20 ||| placed rn 16 ||| placed a 13 ||| m1 8 ||| placed b 6 ||| m 4 ||| placed c 0

/-- The four bytes of a 32-bit instruction in address order: an A32 word little-endian (R31), a T32 instruction
as two little-endian halfwords, the first at the lower address (R32). -/
def bytesOfWord (set : ISet) (w : Word) : List Byte :=
  match set with
  | .a32 => [w.extractLsb' 0 8, w.extractLsb' 8 8, w.extractLsb' 16 8, w.extractLsb' 24 8]
  | .t32 => [w.extractLsb' 16 8, w.extractLsb' 24 8, w.extractLsb' 0 8, w.extractLsb' 8 8]

/-- The bytes of an instruction in address order. -/
def encodeBytes (i : Instr) : List Byte := bytesOfWord i.form.iset (encode i)

/-! ### Words numbered as spec/opcode_table.json numbers them -/

/-- The transfer an argument row's own words are given for: the table lists, in each BANKED_ARG row, the words
with `n` = 0 and `c` = `1110`, the A32 `MRS` first (95_test_vectors 2.2; log 15). -/
def tableForm : Form := .mrsA1 .al 0 0 0

/-- Whether a table width is that of an argument row: six bits, one whole byte (R58). -/
def isArgumentWidth (nbits : Nat) : Bool := nbits ≤ 8

/-- The argument code of a BANKED_ARG row's six bits: `R` is bit 5, `SYSm<4:0>` bits 4:0 (R58). -/
def argOfTableBits (w : Nat) : ArgCode := ⟨BitVec.ofNat 1 (w / 32), BitVec.ofNat 5 w⟩

/-- The instruction set and the 32-bit word that table bits stand for. A T32 row is numbered `hw1 : hw2`, `hw1`
in bits 31:16 (opcode_table.json, R32); its bits 31:28 are `1111`, which no A32 row has (R55), so the word tells
its own set (log 16). An argument row stands for its A32 `MRS` word (log 15). -/
def tableWord (nbits w : Nat) : ISet × Word :=
  let word : Word :=
    if isArgumentWidth nbits then encode (.ofWord tableForm (argOfTableBits w)) else BitVec.ofNat 32 w
  if word.extractLsb' 28 4 = 0b1111 then (.t32, word) else (.a32, word)

/-- The bytes of a table row's instruction as they lie in memory. -/
def tableBytes (nbits w : Nat) : List Byte := bytesOfWord (tableWord nbits w).1 (tableWord nbits w).2

/-- The instruction the decoder reads from table bits: for an instruction-word row the word, laid out in memory
order and decoded (step 1 of R58); for an argument row the same, and then its argument looked up (step 2). -/
def decodeTableWord (nbits w : Nat) : Option Instr :=
  if isArgumentWidth nbits then
    if w < 64 then
      match decode (tableWord nbits w).1 (tableBytes nbits w) with
      | .ok i => some i.resolve
      | .error _ => none
    else none
  else if w < 2 ^ 32 then
    match decode (tableWord nbits w).1 (tableBytes nbits w) with
    | .ok i => some i
    | .error _ => none
  else none

end Sys2Proof
end

