-- ==== Sys2Proof/Config.lean ====
section
/-! DEFINITION. What an implementation fixes (00_scope R4) and the free values, which the spec leaves open. -/

namespace Sys2Proof

/-- The implementation parameters of 00_scope R4. The spec gives no value for any of them (decision D3), so they
are data that a state carries and no step changes, and a statement about every state is one about every setting
(log 1). `CU_BEHAVIOUR` is fixed at the spec's default (log 8) and `XLEN` at 32 by the spec itself. -/
structure Params where
  /-- `HAVE_EL2`: Hyp mode and its registers are implemented (R71). -/
  haveEl2 : Bool
  /-- `HAVE_EL3`: Monitor mode and its registers are implemented (R71). -/
  haveEl3 : Bool
  /-- `EL3_USES_AARCH32`, read only when `haveEl3` (R69). -/
  el3UsesAarch32 : Bool
  /-- `SECURE_WHEN_NO_EL3`: the fixed Security state of a PE without EL3 (R21). -/
  secureWhenNoEl3 : Bool
  /-- `SPSR_KEEP_MASK`: the bits of an SPSR that hold what was written (R94). -/
  spsrKeepMask : Word
  /-- `T32_RD_R13_UNPREDICTABLE`: the older reading of register 13 in the T32 forms (R52, conflict C9). -/
  t32R13Unpredictable : Bool
  deriving DecidableEq, Repr

/-- The spec's defaults where it gives one, and the setting T/T/T of most vectors of 95_test_vectors where it
gives none (DESIGN CHOICE, unsafe; log 2). -/
def Params.initial : Params where
  haveEl2 := true
  haveEl3 := true
  el3UsesAarch32 := true
  secureWhenNoEl3 := false
  spsrKeepMask := 0xFFFFFFFF
  t32R13Unpredictable := false

/-- Free value: what register cell `n` holds at reset, which the spec leaves unspecified and says must not be taken
to be zero (R120) (DESIGN CHOICE; log 3). -/
opaque Config.unknownAtReset : Nat → Word

/-- Free value: draw number `n` of the bits of an SPSR outside `SPSR_KEEP_MASK` (R94) (DESIGN CHOICE; log 11). -/
opaque Config.spsrDraw : Nat → Word

end Sys2Proof
end

