-- ==== Sys2Proof/Machine/State.lean ====
section
/-! DEFINITION. The state of the PE (spec 10_state R10 to R29), as plain data, with the reasons a step can stop and the
state after reset. -/

namespace Sys2Proof.Machine

/-- The nine PE modes (R20). -/
inductive Mode where
  | user | fiq | irq | supervisor | monitor | abort | hyp | undefined | system
  deriving DecidableEq, Repr

/-- Instruction memory (R27): (address, byte) pairs, the addresses strictly rising and below 2^32. An address that
is not listed is one the launch does not define (R35). -/
abbrev Memory := List Host.Cell

/-- The state record of R29, and with it the parameters of R4 (log 1) and the model's own counter of free
values (log 11). -/
structure State where
  /-- The 41 registers of R10, one cell for each name, at the place `Reg.index` gives. -/
  bank : Vector Word 41
  /-- The address of the instruction being executed (R23). -/
  pc : Word
  /-- The PE mode (R20); no instruction in scope writes it. -/
  mode : Mode
  /-- The Security state, true for Secure (R21); no instruction in scope writes it. -/
  secure : Bool
  /-- The live flags that A32 conditions read (R28); no instruction in scope writes them. -/
  flagN : Bool
  flagZ : Bool
  flagC : Bool
  flagV : Bool
  /-- The instruction set being decoded (R29, R53); no instruction in scope writes it. -/
  iset : ISet
  /-- Instruction memory (R27, R35, R36); no instruction writes it. -/
  imem : Memory
  /-- The implementation parameters (R4); no instruction writes them. -/
  params : Params
  /-- The model's own: how many free values have been drawn for SPSR bits (R94; log 11). -/
  draws : Nat
  deriving DecidableEq, Repr

/-- The closed list of reasons of an `Unpredictable` outcome (40_access R76). -/
inductive Reason where
  /-- The instruction is executed in User mode (R60). -/
  | userMode
  /-- The register is not implemented (R71). -/
  | notImplemented
  /-- The register is not accessible from the current Privilege level and Security state (R61 to R63). -/
  | notAccessibleHere
  /-- The register can be accessed from the current mode by another instruction (R64 to R68). -/
  | currentModeRegister
  /-- The register argument code names no register (R54). -/
  | badSysm
  /-- `Rd` or `Rn` is 15, or 13 in T32 under the older reading (R52). -/
  | badGpr
  /-- A should-be bit of the word has the wrong value (R50). -/
  | shouldBeBits
  deriving DecidableEq, Repr

/-- The faults: the outcomes of R8 without a next state, and the two stuck fetches. All are safe: the model stops,
so no claim is proved past them. -/
inductive Fault where
  /-- `Unpredictable(reason)`: the instruction is CONSTRAINED UNPREDICTABLE. Raised by every meaning, through
  `bankedTransfer`; the spec gives no value and no next state (R76; log 8). Safe. -/
  | unpredictable (why : Reason)
  /-- `TrapToEL3`: raised by every meaning whose argument names a Monitor mode register, through `takeTrapToEl3`;
  holds the AArch32 state at the trap, in which nothing is changed (R101, R105; log 9). Safe. -/
  | trapToEl3 (atTrap : State)
  /-- `pc` is not aligned for the instruction set. Raised by the fetch; the spec gives no step (R33; log 10). Safe. -/
  | fetchMisaligned
  /-- The fetch reaches an address instruction memory does not define. Raised by the fetch; the spec gives no
  step (R35; log 10). Safe. -/
  | fetchUndefined
  deriving DecidableEq, Repr

/-- The refusals: what the model gives no meaning. All are safe. -/
inductive Refusal where
  /-- An instruction of the table whose meaning is not written. Raised by `exec`'s arms only; no arm does. Safe. -/
  | notModelled (mnemonic : String)
  /-- The bytes are none of the two instructions: `NotInScope` of 30_encoding R55, with what was read. Raised by
  the step. Safe. -/
  | notInScope (what : DecodeError)
  deriving DecidableEq, Repr

/-- The outcome of a step (R8). -/
abbrev Result := Host.Outcome State Fault Refusal

/-- The state after reset. The spec states no reset value (R120): the cells hold free values (DESIGN CHOICE, log 3), mode and Security state are the family's (PRESUMED, log 5), the rest is a DESIGN CHOICE (logs 2, 4, 6,
11), and memory defines nothing (log 7). Unsafe. -/
def State.reset : State where
  bank := Vector.ofFn fun i => Config.unknownAtReset i.val
  pc := 0
  mode := .supervisor
  secure := true
  flagN := false
  flagZ := false
  flagC := false
  flagV := false
  iset := .a32
  imem := []
  params := Params.initial
  draws := 0

end Sys2Proof.Machine
end

