-- ==== Sys2Proof/Machine/Flags.lean ====
section
/-! DEFINITION. The condition test on the live flags (30_encoding R57). The two instructions write no flag (10_state R28),
so no other flag computation exists. -/

namespace Sys2Proof.Machine

/-- `ConditionPassed(cond)` (R57). -/
def conditionPassed (c : Cond) (s : State) : Bool :=
  match c with
  | .eq => s.flagZ
  | .ne => !s.flagZ
  | .cs => s.flagC
  | .cc => !s.flagC
  | .mi => s.flagN
  | .pl => !s.flagN
  | .vs => s.flagV
  | .vc => !s.flagV
  | .hi => s.flagC && !s.flagZ
  | .ls => !s.flagC || s.flagZ
  | .ge => s.flagN == s.flagV
  | .lt => s.flagN != s.flagV
  | .gt => !s.flagZ && s.flagN == s.flagV
  | .le => s.flagZ || s.flagN != s.flagV
  | .al => true

/-- Whether an encoding's condition passes: an A32 form tests its field, a T32 form is unconditional (R57; the IT
block is excluded by premise, log 14). -/
def formPasses (f : Form) (s : State) : Bool :=
  match f with
  | .mrsA1 cond _ _ _ => conditionPassed cond s
  | .msrA1 cond _ _ _ => conditionPassed cond s
  | .mrsT1 .. => true
  | .msrT1 .. => true

end Sys2Proof.Machine
end

