-- ==== Sys2Proof/Machine/Operands.lean ====
section
/-! DEFINITION. The operands: which cell the current mode reaches by a register number (10_state R18), and whether a
banked register argument may be accessed (40_access R60 to R75). -/

namespace Sys2Proof.Machine

/-! ### Modes -/

/-- The 5-bit mode numbers, descriptive only (10_state R20). -/
def Mode.number : Mode → BitVec 5
  | .user => 0b10000
  | .fiq => 0b10001
  | .irq => 0b10010
  | .supervisor => 0b10011
  | .monitor => 0b10110
  | .abort => 0b10111
  | .hyp => 0b11010
  | .undefined => 0b11011
  | .system => 0b11111

/-- The Exception levels (10_state R22). -/
inductive ExceptionLevel where
  | el0 | el1 | el2 | el3
  deriving DecidableEq, Repr

/-- The current Exception level, a function of mode, Security state and parameters (R22; log 27). -/
def exceptionLevel (s : State) : ExceptionLevel :=
  match s.mode with
  | .user => .el0
  | .hyp => .el2
  | .monitor => .el3
  | .fiq | .irq | .supervisor | .abort | .undefined | .system =>
    if s.secure && s.params.haveEl3 && s.params.el3UsesAarch32 then .el3 else .el1

/-- The six modes at EL1 (or at a Secure AArch32 EL3): every mode but User, Hyp and Monitor (R22, R61). -/
def Mode.isEl1Mode : Mode → Bool
  | .fiq | .irq | .supervisor | .abort | .undefined | .system => true
  | .user | .hyp | .monitor => false

/-! ### The current mode registers -/

/-- The SP copy a mode uses (R14, R18). -/
def currentSp : Mode → BankedReg
  | .user | .system => .sp_usr
  | .hyp => .sp_hyp
  | .supervisor => .sp_svc
  | .abort => .sp_abt
  | .undefined => .sp_und
  | .monitor => .sp_mon
  | .irq => .sp_irq
  | .fiq => .sp_fiq

/-- The LR copy a mode uses; Hyp mode uses `LR_usr` (R15, R18). -/
def currentLr : Mode → BankedReg
  | .user | .system | .hyp => .lr_usr
  | .supervisor => .lr_svc
  | .abort => .lr_abt
  | .undefined => .lr_und
  | .monitor => .lr_mon
  | .irq => .lr_irq
  | .fiq => .lr_fiq

/-- `CurSPSR(mode)`: User and System mode have none (R16, R18). -/
def currentSpsr : Mode → Option BankedReg
  | .user | .system => none
  | .hyp => some .spsr_hyp
  | .supervisor => some .spsr_svc
  | .abort => some .spsr_abt
  | .undefined => some .spsr_und
  | .monitor => some .spsr_mon
  | .irq => some .spsr_irq
  | .fiq => some .spsr_fiq

/-- `CurBank(mode, i)`: the cell an instruction reaches by register number `i`, for `i` in 0..14 (R18); register 15
is no cell of the bank (R7, R52). -/
def curBank (m : Mode) (i : GprNum) : Option Reg :=
  match i.toNat with
  | 0 => some (.low 0)
  | 1 => some (.low 1)
  | 2 => some (.low 2)
  | 3 => some (.low 3)
  | 4 => some (.low 4)
  | 5 => some (.low 5)
  | 6 => some (.low 6)
  | 7 => some (.low 7)
  | 8 => some (.banked (if m = .fiq then .r8_fiq else .r8_usr))
  | 9 => some (.banked (if m = .fiq then .r9_fiq else .r9_usr))
  | 10 => some (.banked (if m = .fiq then .r10_fiq else .r10_usr))
  | 11 => some (.banked (if m = .fiq then .r11_fiq else .r11_usr))
  | 12 => some (.banked (if m = .fiq then .r12_fiq else .r12_usr))
  | 13 => some (.banked (currentSp m))
  | 14 => some (.banked (currentLr m))
  | _ => none

/-- The register that is also current, R18's last column: `ELR_hyp` in Hyp mode (R17), none in the other modes. -/
def currentElr : Mode → Option BankedReg
  | .hyp => some .elr_hyp
  | .user | .system | .supervisor | .abort | .undefined | .monitor | .irq | .fiq => none

/-- The full set of current mode registers of a mode (R18): numbers 0 to 14, the SPSR copy, and `ELR_hyp` in Hyp
mode. -/
def currentModeRegisters (m : Mode) : List Reg :=
  ([0, 1, 2, 3, 4, 5, 6, 7, 8, 9, 10, 11, 12, 13, 14] : List GprNum).filterMap (curBank m)
    ++ (currentSpsr m).toList.map .banked ++ (currentElr m).toList.map .banked

/-! ### The banked registers -/

/-- The seven SPSR copies (10_state R10 (f)). -/
def isSpsr : BankedReg → Bool
  | .spsr_hyp | .spsr_svc | .spsr_abt | .spsr_und | .spsr_mon | .spsr_irq | .spsr_fiq => true
  | _ => false

/-- The Monitor mode banked registers `SP_mon`, `LR_mon`, `SPSR_mon` (40_access R62). -/
def isMonitorReg : BankedReg → Bool
  | .sp_mon | .lr_mon | .spsr_mon => true
  | _ => false

/-- The Hyp mode banked registers `SP_hyp`, `SPSR_hyp`, `ELR_hyp` (40_access R61, conflict C4). -/
def isHypReg : BankedReg → Bool
  | .sp_hyp | .spsr_hyp | .elr_hyp => true
  | _ => false

/-- Whether a register is implemented: the Hyp registers with EL2, the Monitor registers with EL3, the others
always (R71; log 22). -/
def implemented (p : Params) (r : BankedReg) : Bool :=
  if isHypReg r then p.haveEl2 else if isMonitorReg r then p.haveEl3 else true

/-! ### The validity functions -/

/-- A register barred from its own mode only. -/
def barredFrom (m : Mode) (s : State) : Option Reason :=
  if s.mode = m then some .currentModeRegister else none

/-- The Monitor registers' arm of both validity functions (R72, R73). -/
def monitorArm (s : State) : Option Reason :=
  if s.params.haveEl3 = false then some .notImplemented
  else if s.secure = false then some .notAccessibleHere
  else if s.mode = .monitor then some .currentModeRegister
  else none

/-- The arm of `SP_hyp` and `SPSR_hyp`: only from Monitor mode (R72, R73). -/
def hypArm (s : State) : Option Reason :=
  if s.params.haveEl2 = false then some .notImplemented
  else if s.mode = .hyp then some .currentModeRegister
  else if s.mode = .monitor then none
  else some .notAccessibleHere

/-- The arm of `ELR_hyp`: only from Monitor mode or Hyp mode (R72; the Note of R65, conflict C5). -/
def elrHypArm (s : State) : Option Reason :=
  if s.params.haveEl2 = false then some .notImplemented
  else if s.mode = .monitor ∨ s.mode = .hyp then none
  else some .notAccessibleHere

/-- `BankedRegisterAccessValid(SYSm, mode)`, called when `R` = 0 (R72): the reason the access is CONSTRAINED
UNPREDICTABLE, or none. -/
def bankedRegisterAccessValid (sysm : BitVec 5) (s : State) : Option Reason :=
  match sysm.toNat with
  | 0b00000 | 0b00001 | 0b00010 | 0b00011 | 0b00100 =>
    if s.mode = .fiq then none else some .currentModeRegister
  | 0b00101 => barredFrom .system s
  | 0b00110 => if s.mode = .hyp ∨ s.mode = .system then some .currentModeRegister else none
  | 0b01000 | 0b01001 | 0b01010 | 0b01011 | 0b01100 | 0b01101 | 0b01110 => barredFrom .fiq s
  | 0b10000 | 0b10001 => barredFrom .irq s
  | 0b10010 | 0b10011 => barredFrom .supervisor s
  | 0b10100 | 0b10101 => barredFrom .abort s
  | 0b10110 | 0b10111 => barredFrom .undefined s
  | 0b11100 | 0b11101 => monitorArm s
  | 0b11110 => elrHypArm s
  | 0b11111 => hypArm s
  | _ => some .badSysm

/-- `SPSRaccessValid(SYSm, mode)`, called when `R` = 1 (R73). -/
def spsrAccessValid (sysm : BitVec 5) (s : State) : Option Reason :=
  match sysm.toNat with
  | 0b01110 => barredFrom .fiq s
  | 0b10000 => barredFrom .irq s
  | 0b10010 => barredFrom .supervisor s
  | 0b10100 => barredFrom .abort s
  | 0b10110 => barredFrom .undefined s
  | 0b11100 => monitorArm s
  | 0b11110 => hypArm s
  | _ => some .badSysm

/-- The validity function the `R` bit selects (R75 step 5). -/
def accessValid (c : ArgCode) (s : State) : Option Reason :=
  if c.r = 1 then spsrAccessValid c.sysm s else bankedRegisterAccessValid c.sysm s

/-! ### The check of one access -/

/-- `Rd` or `Rn` is not allowed: 15, or 13 in T32 under the older reading (R52, R75 step 3). -/
def badGpr (f : Form) (p : Params) : Bool :=
  f.gpr == 15 || (f.iset == .t32 && f.gpr == 13 && p.t32R13Unpredictable)

/-- What the check of one access decides (R75). -/
inductive Access where
  | proceed (reg : BankedReg)
  | skip
  | trapToEl3
  | unpredictable (why : Reason)
  deriving DecidableEq, Repr

/-- `CheckBankedAccess(cond, gpr, R, SYSm)`: the checks in the order of R75, the first that fires decides. The set
and the condition are the instruction's own (log 23). -/
def checkBankedAccess (f : Form) (c : ArgCode) (s : State) : Access :=
  if formPasses f s = false then .skip
  else if f.shouldBeOk = false then .unpredictable .shouldBeBits
  else if badGpr f s.params then .unpredictable .badGpr
  else if s.mode = .user then .unpredictable .userMode
  else
    match accessValid c s with
    | some why => .unpredictable why
    | none =>
      match decodeBankedArg c with
      | none => .unpredictable .badSysm
      | some reg => if isMonitorReg reg && !s.params.el3UsesAarch32 then .trapToEl3 else .proceed reg

end Sys2Proof.Machine
end

