-- ==== Sys2Proof/Machine/Ops.lean ====
section
/-! DEFINITION. The named operations over registers and memory, the one trap, and the transfer both instructions are. -/

namespace Sys2Proof.Machine

/-! ### Registers -/

/-- The place of a register's cell in the bank: the 41 names are 41 distinct cells (10_state R11). -/
def cellIndex : Reg → Fin 41
  | .low i => i.castLE (by decide)
  | .banked .r8_usr => 8
  | .banked .r9_usr => 9
  | .banked .r10_usr => 10
  | .banked .r11_usr => 11
  | .banked .r12_usr => 12
  | .banked .r8_fiq => 13
  | .banked .r9_fiq => 14
  | .banked .r10_fiq => 15
  | .banked .r11_fiq => 16
  | .banked .r12_fiq => 17
  | .banked .sp_usr => 18
  | .banked .sp_hyp => 19
  | .banked .sp_svc => 20
  | .banked .sp_abt => 21
  | .banked .sp_und => 22
  | .banked .sp_mon => 23
  | .banked .sp_irq => 24
  | .banked .sp_fiq => 25
  | .banked .lr_usr => 26
  | .banked .lr_svc => 27
  | .banked .lr_abt => 28
  | .banked .lr_und => 29
  | .banked .lr_mon => 30
  | .banked .lr_irq => 31
  | .banked .lr_fiq => 32
  | .banked .spsr_hyp => 33
  | .banked .spsr_svc => 34
  | .banked .spsr_abt => 35
  | .banked .spsr_und => 36
  | .banked .spsr_mon => 37
  | .banked .spsr_irq => 38
  | .banked .spsr_fiq => 39
  | .banked .elr_hyp => 40

/-- `bank[name]` (00_scope R7). -/
def State.cell (s : State) (r : Reg) : Word := s.bank[cellIndex r]

/-- `bank[name] <- v` (R7). -/
def State.setCell (s : State) (r : Reg) (v : Word) : State := { s with bank := s.bank.set (cellIndex r) v }

/-- `pc <- pc + 4`, modulo 2^32 (10_state R23; log 20). -/
def State.advance (s : State) : State := { s with pc := s.pc + 4 }

/-- `Legal(reg, v)`: what an SPSR copy holds after `v` is written: `v` on the bits of `SPSR_KEEP_MASK`, a free value
on the others (42_msr R94; log 11). With every bit kept it is `v`. -/
def legalSpsr (keep draw v : Word) : Word :=
  if keep = BitVec.allOnes 32 then v else (v &&& keep) ||| (draw &&& ~~~keep)

/-- `bank[reg] <- Legal(reg, v)` (R90, R91, R94). A write to an SPSR copy that does not keep every bit takes one free
value, and the model's counter moves on. -/
def State.writeBanked (s : State) (reg : BankedReg) (v : Word) : State :=
  if isSpsr reg = true ∧ s.params.spsrKeepMask ≠ BitVec.allOnes 32 then
    { s.setCell (.banked reg) (legalSpsr s.params.spsrKeepMask (Config.spsrDraw s.draws) v) with draws := s.draws + 1 }
  else s.setCell (.banked reg) v

/-! ### Instruction memory -/

/-- What an address that is not listed reads as: nothing, the launch does not define it (20_memory R35; log 7). -/
def unlistedByte : Option Byte := none

/-- One byte of instruction memory. -/
def readByte : Memory → Nat → Option Byte
  | [], _ => unlistedByte
  | (a, b) :: rest, x => if a = x then some b else readByte rest x

/-- Put one byte at an address, keeping the addresses rising. Used to load a program at launch (log 7). -/
def writeByte : Memory → Nat → Byte → Memory
  | [], x, v => [(x, v)]
  | (a, b) :: rest, x, v =>
    if x < a then (x, v) :: (a, b) :: rest
    else if x = a then (x, v) :: rest
    else (a, b) :: writeByte rest x v

/-- Addresses strictly rise from above `lo`, and lie in the 32-bit address space. -/
def risingAbove (lo : Nat) : Memory → Bool
  | [] => true
  | (a, _) :: rest => decide (lo < a) && decide (a < 2 ^ 32) && risingAbove a rest

/-- The canonical form of instruction memory: addresses strictly rising and below 2^32. No entry equals what an
unlisted address reads as, since that is no byte. -/
def Memory.wf : Memory → Bool
  | [] => true
  | (a, _) :: rest => decide (a < 2 ^ 32) && risingAbove a rest

/-- `MemRead(addr, 1)` at a 32-bit address (20_memory R31). -/
def State.readMem (s : State) (a : Word) : Option Byte := readByte s.imem a.toNat

/-- Put bytes at rising addresses from `a`, modulo 2^32 (log 18). -/
def writeBytes (m : Memory) (a : Word) : List Byte → Memory
  | [] => m
  | b :: rest => writeBytes (writeByte m a.toNat b) (a + 1) rest

/-! ### The trap and the transfer -/

/-- Taking the one exception of the spec, the trap to EL3 (60_exceptions R101, R105): the AArch32 model ends with
nothing written and `pc` not advanced; what EL3, in AArch64, does is outside the spec (log 9). -/
def takeTrapToEl3 (s : State) : Result := .fault (.trapToEl3 s)

/-- The end of an instruction that is CONSTRAINED UNPREDICTABLE: no value and no next state (40_access R76; log 8). -/
def endUnpredictable (why : Reason) : Result := .fault (.unpredictable why)

/-- The transfer of a performed instruction: `x[Rd] <- bank[reg]` (41_mrs R80, R81) or `bank[reg] <- Legal(reg, x[Rn])`
(42_msr R90, R91), then `pc <- pc + 4`. A register number that reaches no cell is number 15 (R52). -/
def performTransfer (f : Form) (reg : BankedReg) (s : State) : Result :=
  match curBank s.mode f.gpr with
  | none => endUnpredictable .badGpr
  | some gpr =>
    match f.direction with
    | .mrs => .next ((s.setCell gpr (s.cell (.banked reg))).advance)
    | .msr => .next ((s.writeBanked reg (s.cell gpr)).advance)

/-- `MRS (banked register)` and `MSR (banked register)`: the pseudocode of R80 and R90, which differ only in the
transfer they perform. -/
def bankedTransfer (f : Form) (c : ArgCode) (s : State) : Result :=
  match checkBankedAccess f c s with
  | .skip => .next s.advance
  | .unpredictable why => endUnpredictable why
  | .trapToEl3 => takeTrapToEl3 s
  | .proceed reg => performTransfer f reg s

end Sys2Proof.Machine
end

