-- ==== Sys2Proof/Machine/Argument.lean ====
section
/-! DEFINITION. The meanings of the 64 argument rows (30_encoding R42, R43, R54; 41_mrs R81; 42_msr R91; 40_access R74):
a transfer, of any of the four encodings, whose argument the row is. Each meaning writes its row's code. -/

namespace Sys2Proof.Machine

/-- Argument `R8_usr`, `R : SYSm` = `0 00000` (R42, R81, R91). -/
def execArgR8Usr (f : Form) (s : State) : Result := bankedTransfer f ⟨0, 0b00000⟩ s

/-- Argument `R9_usr`, `R : SYSm` = `0 00001` (R42, R81, R91). -/
def execArgR9Usr (f : Form) (s : State) : Result := bankedTransfer f ⟨0, 0b00001⟩ s

/-- Argument `R10_usr`, `R : SYSm` = `0 00010` (R42, R81, R91). -/
def execArgR10Usr (f : Form) (s : State) : Result := bankedTransfer f ⟨0, 0b00010⟩ s

/-- Argument `R11_usr`, `R : SYSm` = `0 00011` (R42, R81, R91). -/
def execArgR11Usr (f : Form) (s : State) : Result := bankedTransfer f ⟨0, 0b00011⟩ s

/-- Argument `R12_usr`, `R : SYSm` = `0 00100` (R42, R81, R91). -/
def execArgR12Usr (f : Form) (s : State) : Result := bankedTransfer f ⟨0, 0b00100⟩ s

/-- Argument `SP_usr`, `R : SYSm` = `0 00101` (R42, R81, R91). -/
def execArgSpUsr (f : Form) (s : State) : Result := bankedTransfer f ⟨0, 0b00101⟩ s

/-- Argument `LR_usr`, `R : SYSm` = `0 00110` (R42, R81, R91). -/
def execArgLrUsr (f : Form) (s : State) : Result := bankedTransfer f ⟨0, 0b00110⟩ s

/-- Argument `R8_fiq`, `R : SYSm` = `0 01000` (R42, R81, R91). -/
def execArgR8Fiq (f : Form) (s : State) : Result := bankedTransfer f ⟨0, 0b01000⟩ s

/-- Argument `R9_fiq`, `R : SYSm` = `0 01001` (R42, R81, R91). -/
def execArgR9Fiq (f : Form) (s : State) : Result := bankedTransfer f ⟨0, 0b01001⟩ s

/-- Argument `R10_fiq`, `R : SYSm` = `0 01010` (R42, R81, R91). -/
def execArgR10Fiq (f : Form) (s : State) : Result := bankedTransfer f ⟨0, 0b01010⟩ s

/-- Argument `R11_fiq`, `R : SYSm` = `0 01011` (R42, R81, R91). -/
def execArgR11Fiq (f : Form) (s : State) : Result := bankedTransfer f ⟨0, 0b01011⟩ s

/-- Argument `R12_fiq`, `R : SYSm` = `0 01100` (R42, R81, R91). -/
def execArgR12Fiq (f : Form) (s : State) : Result := bankedTransfer f ⟨0, 0b01100⟩ s

/-- Argument `SP_fiq`, `R : SYSm` = `0 01101` (R42, R81, R91). -/
def execArgSpFiq (f : Form) (s : State) : Result := bankedTransfer f ⟨0, 0b01101⟩ s

/-- Argument `LR_fiq`, `R : SYSm` = `0 01110` (R42, R81, R91). -/
def execArgLrFiq (f : Form) (s : State) : Result := bankedTransfer f ⟨0, 0b01110⟩ s

/-- Argument `LR_irq`, `R : SYSm` = `0 10000` (R42, R81, R91). -/
def execArgLrIrq (f : Form) (s : State) : Result := bankedTransfer f ⟨0, 0b10000⟩ s

/-- Argument `SP_irq`, `R : SYSm` = `0 10001` (R42, R81, R91). -/
def execArgSpIrq (f : Form) (s : State) : Result := bankedTransfer f ⟨0, 0b10001⟩ s

/-- Argument `LR_svc`, `R : SYSm` = `0 10010` (R42, R81, R91). -/
def execArgLrSvc (f : Form) (s : State) : Result := bankedTransfer f ⟨0, 0b10010⟩ s

/-- Argument `SP_svc`, `R : SYSm` = `0 10011` (R42, R81, R91). -/
def execArgSpSvc (f : Form) (s : State) : Result := bankedTransfer f ⟨0, 0b10011⟩ s

/-- Argument `LR_abt`, `R : SYSm` = `0 10100` (R42, R81, R91). -/
def execArgLrAbt (f : Form) (s : State) : Result := bankedTransfer f ⟨0, 0b10100⟩ s

/-- Argument `SP_abt`, `R : SYSm` = `0 10101` (R42, R81, R91). -/
def execArgSpAbt (f : Form) (s : State) : Result := bankedTransfer f ⟨0, 0b10101⟩ s

/-- Argument `LR_und`, `R : SYSm` = `0 10110` (R42, R81, R91). -/
def execArgLrUnd (f : Form) (s : State) : Result := bankedTransfer f ⟨0, 0b10110⟩ s

/-- Argument `SP_und`, `R : SYSm` = `0 10111` (R42, R81, R91). -/
def execArgSpUnd (f : Form) (s : State) : Result := bankedTransfer f ⟨0, 0b10111⟩ s

/-- Argument `LR_mon`, `R : SYSm` = `0 11100` (R42, R81, R91). -/
def execArgLrMon (f : Form) (s : State) : Result := bankedTransfer f ⟨0, 0b11100⟩ s

/-- Argument `SP_mon`, `R : SYSm` = `0 11101` (R42, R81, R91). -/
def execArgSpMon (f : Form) (s : State) : Result := bankedTransfer f ⟨0, 0b11101⟩ s

/-- Argument `ELR_hyp`, `R : SYSm` = `0 11110` (R42, R81, R91). -/
def execArgElrHyp (f : Form) (s : State) : Result := bankedTransfer f ⟨0, 0b11110⟩ s

/-- Argument `SP_hyp`, `R : SYSm` = `0 11111` (R42, R81, R91). -/
def execArgSpHyp (f : Form) (s : State) : Result := bankedTransfer f ⟨0, 0b11111⟩ s

/-- Argument `SPSR_fiq`, `R : SYSm` = `1 01110` (R43, R81, R91). -/
def execArgSpsrFiq (f : Form) (s : State) : Result := bankedTransfer f ⟨1, 0b01110⟩ s

/-- Argument `SPSR_irq`, `R : SYSm` = `1 10000` (R43, R81, R91). -/
def execArgSpsrIrq (f : Form) (s : State) : Result := bankedTransfer f ⟨1, 0b10000⟩ s

/-- Argument `SPSR_svc`, `R : SYSm` = `1 10010` (R43, R81, R91). -/
def execArgSpsrSvc (f : Form) (s : State) : Result := bankedTransfer f ⟨1, 0b10010⟩ s

/-- Argument `SPSR_abt`, `R : SYSm` = `1 10100` (R43, R81, R91). -/
def execArgSpsrAbt (f : Form) (s : State) : Result := bankedTransfer f ⟨1, 0b10100⟩ s

/-- Argument `SPSR_und`, `R : SYSm` = `1 10110` (R43, R81, R91). -/
def execArgSpsrUnd (f : Form) (s : State) : Result := bankedTransfer f ⟨1, 0b10110⟩ s

/-- Argument `SPSR_mon`, `R : SYSm` = `1 11100` (R43, R81, R91). -/
def execArgSpsrMon (f : Form) (s : State) : Result := bankedTransfer f ⟨1, 0b11100⟩ s

/-- Argument `SPSR_hyp`, `R : SYSm` = `1 11110` (R43, R81, R91). -/
def execArgSpsrHyp (f : Form) (s : State) : Result := bankedTransfer f ⟨1, 0b11110⟩ s

/-- An argument marked CONSTRAINED UNPREDICTABLE, `arg` one of the 31 codes of R54: the checks before it as for
any argument, so that a failed A32 condition still makes the instruction a no-op (R57, R75, R76). -/
def execArgConstrainedUnpredictable (arg : ArgCode) (f : Form) (s : State) : Result := bankedTransfer f arg s

end Sys2Proof.Machine
end

