-- ==== Sys2Proof/Machine/Mrs.lean ====
section
/-! DEFINITION. The meanings of the two `MRS (banked register)` rows (41_mrs R80 to R83). -/

namespace Sys2Proof.Machine

/-- `MRS (banked register)`, A32 encoding A1 (R80, R45). -/
def execMrsA1 (cond : Cond) (rd : GprNum) (arg : ArgCode) (sbz11to10 : BitVec 2) (sbz3to0 : BitVec 4)
    (s : State) : Result :=
  bankedTransfer (.mrsA1 cond rd sbz11to10 sbz3to0) arg s

/-- `MRS (banked register)`, T32 encoding T1 (R80, R47). -/
def execMrsT1 (rd : GprNum) (arg : ArgCode) (sbz13 : BitVec 1) (sbz7to6 : BitVec 2) (sbz3to0 : BitVec 4)
    (s : State) : Result :=
  bankedTransfer (.mrsT1 rd sbz13 sbz7to6 sbz3to0) arg s

end Sys2Proof.Machine
end

