-- ==== Sys2Proof/Machine/Msr.lean ====
section
/-! DEFINITION. The meanings of the two `MSR (banked register)` rows (42_msr R90 to R94). -/

namespace Sys2Proof.Machine

/-- `MSR (banked register)`, A32 encoding A1 (R90, R46). -/
def execMsrA1 (cond : Cond) (rn : GprNum) (arg : ArgCode) (sbo15to12 : BitVec 4) (sbz11to10 : BitVec 2)
    (s : State) : Result :=
  bankedTransfer (.msrA1 cond rn sbo15to12 sbz11to10) arg s

/-- `MSR (banked register)`, T32 encoding T1 (R90, R48). -/
def execMsrT1 (rn : GprNum) (arg : ArgCode) (sbz13 : BitVec 1) (sbz7to6 : BitVec 2) (sbz3to0 : BitVec 4)
    (s : State) : Result :=
  bankedTransfer (.msrT1 rn sbz13 sbz7to6 sbz3to0) arg s

end Sys2Proof.Machine
end

