-- ==== Sys2Proof/Machine/Dispatch.lean ====
section
/-! DEFINITION. The dispatch: one arm for each constructor of `Instr`. -/

namespace Sys2Proof.Machine

/-- The meaning of an instruction. -/
def exec (i : Instr) (s : State) : Host.Outcome State Fault Refusal :=
  match i with
  | .mrsA1 cond rd arg hi lo => Sys2Proof.Machine.execMrsA1 cond rd arg hi lo s
  | .msrA1 cond rn arg sbo sbz => Sys2Proof.Machine.execMsrA1 cond rn arg sbo sbz s
  | .mrsT1 rd arg a b c => Sys2Proof.Machine.execMrsT1 rd arg a b c s
  | .msrT1 rn arg a b c => Sys2Proof.Machine.execMsrT1 rn arg a b c s
  | .argR8Usr f => Sys2Proof.Machine.execArgR8Usr f s
  | .argR9Usr f => Sys2Proof.Machine.execArgR9Usr f s
  | .argR10Usr f => Sys2Proof.Machine.execArgR10Usr f s
  | .argR11Usr f => Sys2Proof.Machine.execArgR11Usr f s
  | .argR12Usr f => Sys2Proof.Machine.execArgR12Usr f s
  | .argSpUsr f => Sys2Proof.Machine.execArgSpUsr f s
  | .argLrUsr f => Sys2Proof.Machine.execArgLrUsr f s
  | .argR8Fiq f => Sys2Proof.Machine.execArgR8Fiq f s
  | .argR9Fiq f => Sys2Proof.Machine.execArgR9Fiq f s
  | .argR10Fiq f => Sys2Proof.Machine.execArgR10Fiq f s
  | .argR11Fiq f => Sys2Proof.Machine.execArgR11Fiq f s
  | .argR12Fiq f => Sys2Proof.Machine.execArgR12Fiq f s
  | .argSpFiq f => Sys2Proof.Machine.execArgSpFiq f s
  | .argLrFiq f => Sys2Proof.Machine.execArgLrFiq f s
  | .argLrIrq f => Sys2Proof.Machine.execArgLrIrq f s
  | .argSpIrq f => Sys2Proof.Machine.execArgSpIrq f s
  | .argLrSvc f => Sys2Proof.Machine.execArgLrSvc f s
  | .argSpSvc f => Sys2Proof.Machine.execArgSpSvc f s
  | .argLrAbt f => Sys2Proof.Machine.execArgLrAbt f s
  | .argSpAbt f => Sys2Proof.Machine.execArgSpAbt f s
  | .argLrUnd f => Sys2Proof.Machine.execArgLrUnd f s
  | .argSpUnd f => Sys2Proof.Machine.execArgSpUnd f s
  | .argLrMon f => Sys2Proof.Machine.execArgLrMon f s
  | .argSpMon f => Sys2Proof.Machine.execArgSpMon f s
  | .argElrHyp f => Sys2Proof.Machine.execArgElrHyp f s
  | .argSpHyp f => Sys2Proof.Machine.execArgSpHyp f s
  | .argSpsrFiq f => Sys2Proof.Machine.execArgSpsrFiq f s
  | .argSpsrIrq f => Sys2Proof.Machine.execArgSpsrIrq f s
  | .argSpsrSvc f => Sys2Proof.Machine.execArgSpsrSvc f s
  | .argSpsrAbt f => Sys2Proof.Machine.execArgSpsrAbt f s
  | .argSpsrUnd f => Sys2Proof.Machine.execArgSpsrUnd f s
  | .argSpsrMon f => Sys2Proof.Machine.execArgSpsrMon f s
  | .argSpsrHyp f => Sys2Proof.Machine.execArgSpsrHyp f s
  | .argConstrainedUnpredictable arg f => Sys2Proof.Machine.execArgConstrainedUnpredictable arg f s

end Sys2Proof.Machine
end

