-- ==== Sys2Proof/Machine/Fetch.lean ====
section
/-! DEFINITION. Instruction fetch (20_memory R31 to R37) and the loading of an instruction at the launch. -/

namespace Sys2Proof.Machine

/-- `pc` is a multiple of 4 in A32 and of 2 in T32 (R33). -/
def pcAligned (s : State) : Bool :=
  match s.iset with
  | .a32 => s.pc.extractLsb' 0 2 == 0
  | .t32 => s.pc.extractLsb' 0 1 == 0

/-- `MemRead(a, 2)`: two bytes, the one at the lower address first (R32); none where memory defines no byte. -/
def readTwo (s : State) (a : Word) : Option (List Byte) :=
  match s.readMem a, s.readMem (a + 1) with
  | some b0, some b1 => some [b0, b1]
  | _, _ => none

/-- The four bytes of an instruction, the one at the lowest address first: `MemRead(a, 4)` in A32 (R31), and in T32
`MemRead(a, 2)` and `MemRead(a + 2, 2)`, the two halfwords that every T32 fetch reads (R32, R34). None where one of
the bytes is not defined. -/
def readFour (s : State) (a : Word) : Option (List Byte) :=
  match readTwo s a, readTwo s (a + 2) with
  | some lo, some hi => some (lo ++ hi)
  | _, _ => none

/-- The bytes of the instruction at `pc`, in address order, four in both instruction sets (R31, R32). A misaligned or
undefined fetch has no step (R33, R35, R37; log 10). -/
def fetch (s : State) : Except Fault (List Byte) :=
  if pcAligned s = false then .error .fetchMisaligned
  else
    match readFour s s.pc with
    | some bytes => .ok bytes
    | none => .error .fetchUndefined

/-- An instruction of the opcode table stored at `pc` and its instruction set selected: the load of a one-instruction
program at launch (R35, R120, R121; log 7). -/
def loadTableWord (s : State) (nbits w : Nat) : State :=
  { s with
    iset := (tableWord nbits w).1
    imem := writeBytes s.imem s.pc (tableBytes nbits w) }

end Sys2Proof.Machine
end

