-- ==== Sys2Proof/Machine/Step.lean ====
section
/-! DEFINITION. One step of the PE (00_scope R8): fetch at `pc`, decode, execute. -/

namespace Sys2Proof.Machine

/-- One step. A fetch without bytes is a fault (R33, R35), bytes that are none of the two instructions are refused
as NotInScope (30_encoding R55), and an instruction has its meaning. -/
def step (s : State) : Host.Outcome State Fault Refusal :=
  match fetch s with
  | .error why => .fault why
  | .ok bytes =>
    match decode s.iset bytes with
    | .error what => .refused (.notInScope what)
    | .ok i => exec i s

/-- The instruction of the opcode table whose bits are `w`, stored where the next step fetches. -/
def State.withFetchWord (s : State) (nbits w : Nat) : State := loadTableWord s nbits w

end Sys2Proof.Machine
end

