-- ==== Sys2Proof/Machine/Assembly.lean ====
section
/-! DEFINITION. The assembler syntax of the two instructions (30_encoding R56, R57), as tokens: mnemonic, condition
suffix, and the two operands in order. Names do not affect the encoding or the machine (91_not_in_source N8).
Operand order and alternative names are PRESUMED (log 29), case is a DESIGN CHOICE (log 28). -/

namespace Sys2Proof.Machine

/-- The name of a register argument, as Figure F5-1 writes it (10_state R10). -/
def bankedName : BankedReg → String
  | .r8_usr => "R8_usr"
  | .r9_usr => "R9_usr"
  | .r10_usr => "R10_usr"
  | .r11_usr => "R11_usr"
  | .r12_usr => "R12_usr"
  | .r8_fiq => "R8_fiq"
  | .r9_fiq => "R9_fiq"
  | .r10_fiq => "R10_fiq"
  | .r11_fiq => "R11_fiq"
  | .r12_fiq => "R12_fiq"
  | .sp_usr => "SP_usr"
  | .sp_hyp => "SP_hyp"
  | .sp_svc => "SP_svc"
  | .sp_abt => "SP_abt"
  | .sp_und => "SP_und"
  | .sp_mon => "SP_mon"
  | .sp_irq => "SP_irq"
  | .sp_fiq => "SP_fiq"
  | .lr_usr => "LR_usr"
  | .lr_svc => "LR_svc"
  | .lr_abt => "LR_abt"
  | .lr_und => "LR_und"
  | .lr_mon => "LR_mon"
  | .lr_irq => "LR_irq"
  | .lr_fiq => "LR_fiq"
  | .spsr_hyp => "SPSR_hyp"
  | .spsr_svc => "SPSR_svc"
  | .spsr_abt => "SPSR_abt"
  | .spsr_und => "SPSR_und"
  | .spsr_mon => "SPSR_mon"
  | .spsr_irq => "SPSR_irq"
  | .spsr_fiq => "SPSR_fiq"
  | .elr_hyp => "ELR_hyp"

/-- The alternative name of an SP or LR copy, which the source does not spell (R56, N8) (PRESUMED; log 29). -/
def bankedAltName : BankedReg → Option String
  | .sp_usr => some "R13_usr"
  | .sp_hyp => some "R13_hyp"
  | .sp_svc => some "R13_svc"
  | .sp_abt => some "R13_abt"
  | .sp_und => some "R13_und"
  | .sp_mon => some "R13_mon"
  | .sp_irq => some "R13_irq"
  | .sp_fiq => some "R13_fiq"
  | .lr_usr => some "R14_usr"
  | .lr_svc => some "R14_svc"
  | .lr_abt => some "R14_abt"
  | .lr_und => some "R14_und"
  | .lr_mon => some "R14_mon"
  | .lr_irq => some "R14_irq"
  | .lr_fiq => some "R14_fiq"
  | _ => none

/-- The 33 register arguments. -/
def bankedRegs : List BankedReg :=
  [.r8_usr, .r9_usr, .r10_usr, .r11_usr, .r12_usr, .r8_fiq, .r9_fiq, .r10_fiq, .r11_fiq, .r12_fiq,
   .sp_usr, .sp_hyp, .sp_svc, .sp_abt, .sp_und, .sp_mon, .sp_irq, .sp_fiq,
   .lr_usr, .lr_svc, .lr_abt, .lr_und, .lr_mon, .lr_irq, .lr_fiq,
   .spsr_hyp, .spsr_svc, .spsr_abt, .spsr_und, .spsr_mon, .spsr_irq, .spsr_fiq, .elr_hyp]

/-- The register a name stands for: a name of Figure F5-1 or an alternative name (R56). Letters must match in case, which
the spec leaves open (91_not_in_source N8) (DESIGN CHOICE; log 28). -/
def bankedOfName (name : String) : Option BankedReg :=
  bankedRegs.find? fun r => bankedName r == name || bankedAltName r == some name

/-- The code an assembler writes for a name (R56). -/
def argOfName (name : String) : Option ArgCode := (bankedOfName name).map encodeBankedArg

/-- The suffix of a condition; AL is omitted (R56, R57). -/
def condSuffix : Cond → String
  | .eq => "EQ"
  | .ne => "NE"
  | .cs => "CS"
  | .cc => "CC"
  | .mi => "MI"
  | .pl => "PL"
  | .vs => "VS"
  | .vc => "VC"
  | .hi => "HI"
  | .ls => "LS"
  | .ge => "GE"
  | .lt => "LT"
  | .gt => "GT"
  | .le => "LE"
  | .al => ""

/-- The name of a general-purpose register operand, `R0` to `R12`, `SP`, `LR` (R56); 15 has none (R52). -/
def gprName (i : GprNum) : Option String :=
  ["R0", "R1", "R2", "R3", "R4", "R5", "R6", "R7", "R8", "R9", "R10", "R11", "R12", "SP", "LR"][i.toNat]?

/-- The condition suffix of an encoding; the T32 forms have none (R57). -/
def formSuffix : Form → String
  | .mrsA1 cond _ _ _ => condSuffix cond
  | .msrA1 cond _ _ _ => condSuffix cond
  | .mrsT1 .. => ""
  | .msrT1 .. => ""

/-- The tokens of an instruction (R56): `MRS<c> <Rd>, <banked_reg>` or `MSR<c> <banked_reg>, <Rn>`, the qualifier
`<q>` left out (log 29); none where an operand has no name. -/
def assemblyTokens (i : Instr) : Option (List String) :=
  match gprName i.form.gpr, decodeBankedArg i.argument with
  | some gpr, some reg =>
    match i.form.direction with
    | .mrs => some ["MRS", formSuffix i.form, gpr, bankedName reg]
    | .msr => some ["MSR", formSuffix i.form, bankedName reg, gpr]
  | _, _ => none

end Sys2Proof.Machine
end

