-- ==== Sys2Proof/Machine/Matrix.lean ====
section
/-! DEFINITION. The whole accessibility matrix (40_access R74), transcribed from the spec as data. The machine does not
use it: it runs the validity functions (R72, R73), and a statement says that the two agree. -/

namespace Sys2Proof.Machine

/-- A cell of the matrix, by the legend of R74. -/
inductive MatrixCell where
  /-- performed -/
  | ok
  /-- CONSTRAINED UNPREDICTABLE, reason `CurrentModeRegister` -/
  | cur
  /-- CONSTRAINED UNPREDICTABLE, reason `NotAccessibleHere` (R61, R63) -/
  | hyp
  /-- `S`: by the Security state -/
  | sec
  /-- CONSTRAINED UNPREDICTABLE, reason `NotAccessibleHere` (R62) -/
  | ns
  deriving DecidableEq, Repr

/-- The rows of R74; columns FIQ, IRQ, Supervisor, Abort, Undefined, System, Hyp, Monitor. -/
def accessMatrix : List (BankedReg × List MatrixCell) :=
  [(.r8_usr, [.ok, .cur, .cur, .cur, .cur, .cur, .cur, .cur]),
   (.r9_usr, [.ok, .cur, .cur, .cur, .cur, .cur, .cur, .cur]),
   (.r10_usr, [.ok, .cur, .cur, .cur, .cur, .cur, .cur, .cur]),
   (.r11_usr, [.ok, .cur, .cur, .cur, .cur, .cur, .cur, .cur]),
   (.r12_usr, [.ok, .cur, .cur, .cur, .cur, .cur, .cur, .cur]),
   (.sp_usr, [.ok, .ok, .ok, .ok, .ok, .cur, .ok, .ok]),
   (.lr_usr, [.ok, .ok, .ok, .ok, .ok, .cur, .cur, .ok]),
   (.r8_fiq, [.cur, .ok, .ok, .ok, .ok, .ok, .ok, .ok]),
   (.r9_fiq, [.cur, .ok, .ok, .ok, .ok, .ok, .ok, .ok]),
   (.r10_fiq, [.cur, .ok, .ok, .ok, .ok, .ok, .ok, .ok]),
   (.r11_fiq, [.cur, .ok, .ok, .ok, .ok, .ok, .ok, .ok]),
   (.r12_fiq, [.cur, .ok, .ok, .ok, .ok, .ok, .ok, .ok]),
   (.sp_fiq, [.cur, .ok, .ok, .ok, .ok, .ok, .ok, .ok]),
   (.lr_fiq, [.cur, .ok, .ok, .ok, .ok, .ok, .ok, .ok]),
   (.spsr_fiq, [.cur, .ok, .ok, .ok, .ok, .ok, .ok, .ok]),
   (.lr_irq, [.ok, .cur, .ok, .ok, .ok, .ok, .ok, .ok]),
   (.sp_irq, [.ok, .cur, .ok, .ok, .ok, .ok, .ok, .ok]),
   (.spsr_irq, [.ok, .cur, .ok, .ok, .ok, .ok, .ok, .ok]),
   (.lr_svc, [.ok, .ok, .cur, .ok, .ok, .ok, .ok, .ok]),
   (.sp_svc, [.ok, .ok, .cur, .ok, .ok, .ok, .ok, .ok]),
   (.spsr_svc, [.ok, .ok, .cur, .ok, .ok, .ok, .ok, .ok]),
   (.lr_abt, [.ok, .ok, .ok, .cur, .ok, .ok, .ok, .ok]),
   (.sp_abt, [.ok, .ok, .ok, .cur, .ok, .ok, .ok, .ok]),
   (.spsr_abt, [.ok, .ok, .ok, .cur, .ok, .ok, .ok, .ok]),
   (.lr_und, [.ok, .ok, .ok, .ok, .cur, .ok, .ok, .ok]),
   (.sp_und, [.ok, .ok, .ok, .ok, .cur, .ok, .ok, .ok]),
   (.spsr_und, [.ok, .ok, .ok, .ok, .cur, .ok, .ok, .ok]),
   (.lr_mon, [.sec, .sec, .sec, .sec, .sec, .sec, .ns, .cur]),
   (.sp_mon, [.sec, .sec, .sec, .sec, .sec, .sec, .ns, .cur]),
   (.spsr_mon, [.sec, .sec, .sec, .sec, .sec, .sec, .ns, .cur]),
   (.elr_hyp, [.hyp, .hyp, .hyp, .hyp, .hyp, .hyp, .ok, .ok]),
   (.sp_hyp, [.hyp, .hyp, .hyp, .hyp, .hyp, .hyp, .cur, .ok]),
   (.spsr_hyp, [.hyp, .hyp, .hyp, .hyp, .hyp, .hyp, .cur, .ok])]

/-- The column of a mode; User mode has none. -/
def matrixColumn : Mode → Option Nat
  | .user => none
  | .fiq => some 0
  | .irq => some 1
  | .supervisor => some 2
  | .abort => some 3
  | .undefined => some 4
  | .system => some 5
  | .hyp => some 6
  | .monitor => some 7

/-- The row of a register. -/
def matrixRow (reg : BankedReg) : List MatrixCell := ((accessMatrix.find? fun row => row.1 == reg).map Prod.snd).getD []

/-- The cell of a register and a mode other than User. -/
def matrixCell (reg : BankedReg) (m : Mode) : Option MatrixCell := (matrixColumn m).bind fun k => (matrixRow reg)[k]?

/-- What the matrix says of an access: the legend of R74 with its sentences on User mode and on registers that are
not implemented (R71). -/
def matrixAccess (s : State) (reg : BankedReg) : Access :=
  match matrixCell reg s.mode with
  | none => .unpredictable .userMode
  | some cell =>
    if implemented s.params reg = false then .unpredictable .notImplemented
    else
      match cell with
      | .ok => .proceed reg
      | .cur => .unpredictable .currentModeRegister
      | .hyp => .unpredictable .notAccessibleHere
      | .ns => .unpredictable .notAccessibleHere
      | .sec =>
        if s.secure = false then .unpredictable .notAccessibleHere
        else if s.params.el3UsesAarch32 then .proceed reg
        else .trapToEl3

/-- The matrix says that an access to `reg` is performed in state `s`. -/
def performedFrom (s : State) (reg : BankedReg) : Bool := matrixAccess s reg == .proceed reg

/-- The registers a state must not give access to, whatever an instruction does (40_access R70): the Monitor registers
in Non-secure state (R62), the Hyp registers in every mode but Hyp and Monitor mode (R61, R63; User mode, R60). -/
def protectedReg (s : State) (reg : BankedReg) : Bool :=
  (isMonitorReg reg && !s.secure) || (isHypReg reg && s.mode != .hyp && s.mode != .monitor)

end Sys2Proof.Machine
end

