-- ==== Sys2Proof/Safety.lean ====
section
/-! DEFINITION. The premises of a launch (10_state R29, 70_reset R121) and what a safe run is (40_access R76). -/

namespace Sys2Proof.Machine

/-- The well-formedness of mode and Security state (R29): Hyp mode needs EL2 and is Non-secure, Monitor mode needs
an AArch32 EL3 and is Secure, and without EL3 the Security state is the parameter's. -/
def State.modeOk (s : State) : Bool :=
  (s.mode != .hyp || (s.params.haveEl2 && !s.secure))
    && (s.mode != .monitor || (s.params.haveEl3 && s.params.el3UsesAarch32 && s.secure))
    && (s.params.haveEl3 || s.secure == s.params.secureWhenNoEl3)

/-- A state a run may be in: modes well formed (R29), `pc` aligned (R33, R121), memory in canonical form. -/
def State.wellFormed (s : State) : Bool := s.modeOk && pcAligned s && Memory.wf s.imem

/-- An outcome that lets a run go on (R8, R76). -/
def isNext : Result → Bool
  | .next _ => true
  | .fault _ => false
  | .refused _ => false

/-- `n` steps from `s` without a fault or a refusal: the premise, or the claim, that no `Unpredictable` outcome and
no trap is reached (R76, R125). -/
def safeFor : Nat → State → Bool
  | 0, _ => true
  | n + 1, s =>
    match step s with
    | .next t => safeFor n t
    | .fault _ => false
    | .refused _ => false

end Sys2Proof.Machine
end

