-- ==== Sys2Proof/WellFormed.lean ====
section
/-! DEFINITION. Which terms of `Instr` software may write: should-be bits as they should be (30_encoding R50),
`Rd` or `Rn` in R0 to R14 (R52, R56), and an argument that fits its row (R54, R58). A term that fails a check still
decodes and has its meaning (the outcome `Unpredictable`), it is no instruction an assembler produces. -/

namespace Sys2Proof

/-- The argument fits the row: a word row names a register, as does a register's own argument row; the
CONSTRAINED UNPREDICTABLE row holds one of the 31 codes of R54. -/
def Instr.argumentOk : Instr → Bool
  | .argConstrainedUnpredictable arg _ => (decodeBankedArg arg).isNone
  | i => (decodeBankedArg i.argument).isSome

/-- The three checks together. -/
def Instr.wellFormed (i : Instr) : Bool :=
  i.form.shouldBeOk && i.form.gpr != 15 && i.argumentOk

end Sys2Proof
end

