-- ==== Sys2Proof/Certificates/Slice0/Obligations.lean ====
section
/-! DEFINITION. The statements for the provers, each from the rules of spec/ its docstring names. -/

open Sys2Proof Sys2Proof.Machine

/-! ### Encoding -/

/-- R41, R42, R43: the register argument is what Tables F5-116 and F5-117 say, and the `R` bit tells the SPSR
copies from the others. -/
def Obligations.ArgumentDecodeEqualsTables : Prop :=
  (∀ c : ArgCode, decodeBankedArg c = bankedArgCell c) ∧
  ∀ (c : ArgCode) (reg : BankedReg), decodeBankedArg c = some reg → (c.r = 1 ↔ isSpsr reg = true)

/-- R44, the regularities (ii) to (iv): LR and SP by `SYSm<0>`, the SPSR of a mode at its LR's `SYSm`, and no SPSR
at an odd `SYSm`. -/
def Obligations.ArgumentCodeRegularities : Prop :=
  (∀ p ∈ [(BankedReg.lr_irq, BankedReg.sp_irq, BankedReg.spsr_irq), (.lr_svc, .sp_svc, .spsr_svc),
      (.lr_abt, .sp_abt, .spsr_abt), (.lr_und, .sp_und, .spsr_und), (.lr_mon, .sp_mon, .spsr_mon)],
    (encodeBankedArg p.1).sysm.extractLsb' 0 1 = 0 ∧
    (encodeBankedArg p.2.1).sysm = (encodeBankedArg p.1).sysm ||| 1 ∧
    (encodeBankedArg p.2.2).sysm = (encodeBankedArg p.1).sysm) ∧
  (encodeBankedArg .spsr_fiq).sysm = (encodeBankedArg .lr_fiq).sysm ∧
  (encodeBankedArg .spsr_hyp).sysm = (encodeBankedArg .elr_hyp).sysm ∧
  ∀ m : BitVec 5, m.extractLsb' 0 1 = 1 → decodeBankedArg ⟨1, m⟩ = none

/-- Rows R45 to R48 with R31, R32 and R49: decoding the bytes of any instruction-word row, every field at every
value, gives the row back. -/
def Obligations.DecodeEncodeWordRows : Prop :=
  ∀ (f : Form) (c : ArgCode), decode f.iset (encodeBytes (Instr.ofWord f c)) = .ok (Instr.ofWord f c)

/-- R58: both steps of the decode on the bytes of any argument row, of any encoding, give the row back: the 33
rows that name a register, and the row of the codes that name none. -/
def Obligations.DecodeEncodeArgumentRows : Prop :=
  (∀ (f : Form) (reg : BankedReg),
    ∃ i, decode f.iset (encodeBytes (Instr.ofBanked f reg)) = .ok i ∧ i.resolve = Instr.ofBanked f reg) ∧
  ∀ (f : Form) (c : ArgCode), decodeBankedArg c = none →
    ∃ i, decode f.iset (encodeBytes (Instr.argConstrainedUnpredictable c f)) = .ok i ∧
      i.resolve = .argConstrainedUnpredictable c f

/-- No bit of a word is lost (R45 to R50): whatever decodes encodes to the very word it was read from. -/
def Obligations.EncodeDecodedWordIsWord : Prop :=
  ∀ (set : ISet) (w : Word) (i : Instr),
    decode set (bytesOfWord set w) = .ok i → encode i = w ∧ i.form.iset = set

/-- Words of 95_test_vectors 2.2 and 2.3 decode to the instructions they stand for. -/
def Obligations.SpecWordsDecode : Prop :=
  decode .a32 [0x00, 0x03, 0x03, 0xE1] = .ok (.mrsA1 .al 0 ⟨0, 0b10011⟩ 0 0) ∧
  decode .a32 [0x04, 0xF3, 0x6E, 0xA1] = .ok (.msrA1 .ge 4 ⟨1, 0b11110⟩ 0b1111 0) ∧
  decode .t32 [0xEE, 0xF3, 0x30, 0x8A] = .ok (.mrsT1 10 ⟨0, 0b11110⟩ 0 0 0) ∧
  decode .t32 [0x8D, 0xF3, 0x30, 0x83] = .ok (.msrT1 13 ⟨0, 0b10011⟩ 0 0 0) ∧
  decode .a32 [0x00, 0x03, 0x03, 0xF1] = .error (.notInScopeA32 0xF1030300)

/-- R55: a word that matches none of R45 to R48 is refused as NotInScope, in A32 (where `cond` = `1111` is refused
too), in 32-bit T32, and where its first T32 halfword is a 16-bit one (R53). A T32 fetch reads both halfwords
(R32); that the refusal of a 16-bit one names that halfword alone is the model's choice (log 17, DEDUCED). -/
def Obligations.OutOfScopeWordsAreRefused : Prop :=
  ∀ s : State, pcAligned s = true →
    (∀ w : Word, s.iset = .a32 → readFour s s.pc = some (bytesOfWord .a32 w) →
      (w.extractLsb' 28 4 = 0b1111 ∨
        (w &&& 0x0FB002F0 ≠ 0x01000200 ∧ w &&& 0x0FB002F0 ≠ 0x01200200)) →
      step s = .refused (.notInScope (.notInScopeA32 w))) ∧
    (∀ w : Word, s.iset = .t32 → readFour s s.pc = some (bytesOfWord .t32 w) →
      isT32Wide (w.extractLsb' 16 16) = true →
      w &&& 0xFFE0D020 ≠ 0xF3E08020 → w &&& 0xFFE0D020 ≠ 0xF3808020 →
      step s = .refused (.notInScope (.notInScopeT32 w))) ∧
    ∀ w : Word, s.iset = .t32 → readFour s s.pc = some (bytesOfWord .t32 w) →
      isT32Wide (w.extractLsb' 16 16) = false →
      step s = .refused (.notInScope (.notInScopeT16 (w.extractLsb' 16 16)))

/-! ### The step -/

/-- R8, R58: a step runs the instruction its bytes decode to, and the argument row that instruction's code selects
means the same. Nothing is added around `exec`: each meaning moves `pc` itself. -/
def Obligations.StepRunsDecodedInstruction : Prop :=
  ∀ (s : State) (bytes : List Byte) (i : Instr),
    fetch s = .ok bytes → decode s.iset bytes = .ok i → step s = exec i s ∧ step s = exec i.resolve s

/-- R31, R32: with the four bytes of an encoded instruction at `pc` to `pc + 3`, in the order of its instruction set,
the step runs it. That these addresses are taken modulo 2^32, so that a T32 instruction at FFFFFFFE goes on at
address 0, is the model's choice (log 18, DEDUCED, unsafe): R31 and R32 do not say it. -/
def Obligations.StepRunsEncodedBytes : Prop :=
  ∀ (s : State) (f : Form) (c : ArgCode) (b0 b1 b2 b3 : Byte),
    f.iset = s.iset → pcAligned s = true → encodeBytes (Instr.ofWord f c) = [b0, b1, b2, b3] →
    s.readMem s.pc = some b0 → s.readMem (s.pc + 1) = some b1 →
    s.readMem (s.pc + 2) = some b2 → s.readMem (s.pc + 3) = some b3 →
    step s = exec (Instr.ofWord f c) s

/-- The model's load of one instruction at launch (log 7; R35, R121), its addresses modulo 2^32 (log 18): the very next
step runs it. -/
def Obligations.LoadedWordRunsNext : Prop :=
  ∀ (s : State) (f : Form) (c : ArgCode), pcAligned { s with iset := f.iset } = true →
    step (s.withFetchWord 32 (encode (Instr.ofWord f c)).toNat) =
      exec (Instr.ofWord f c) (s.withFetchWord 32 (encode (Instr.ofWord f c)).toNat)

/-- R33, R35: a fetch at a misaligned `pc`, or from an address memory does not define (each fetch reads four bytes, in
T32 as two halfwords: R31, R32), has no step; the model says so by two named faults (log 10). The addresses of a fetch are taken modulo 2^32 (log 18). -/
def Obligations.StuckFetchStops : Prop :=
  ∀ s : State,
    (pcAligned s = false → step s = .fault .fetchMisaligned) ∧
    (pcAligned s = true →
      (s.readMem s.pc = none ∨ s.readMem (s.pc + 1) = none ∨ s.readMem (s.pc + 2) = none ∨
        s.readMem (s.pc + 3) = none) →
      step s = .fault .fetchUndefined)

/-- R58: an argument row means, for every encoding and in every state, what the word row with its code means. -/
def Obligations.ArgumentRowsMeanWhatWordsMean : Prop :=
  ∀ (f : Form) (c : ArgCode) (s : State), exec (Instr.ofArgument f c) s = exec (Instr.ofWord f c) s

/-! ### What the instructions do -/

/-- R80, R81: a performed `MRS`, A32 (`mrsA1`) and T32 (`mrsT1`), completes and copies the whole named register into
`Rd` as the current mode sees it, and `pc` advances. -/
def Obligations.MrsWordRowsCopyRegister : Prop :=
  ∀ (s : State) (rd : GprNum) (reg : BankedReg) (dst : Reg),
    curBank s.mode rd = some dst → performedFrom s reg = true →
    (∀ cond : Cond, conditionPassed cond s = true →
      exec (.mrsA1 cond rd (encodeBankedArg reg) 0 0) s =
        .next ((s.setCell dst (s.cell (.banked reg))).advance)) ∧
    ((rd = 13 → s.params.t32R13Unpredictable = false) →
      exec (.mrsT1 rd (encodeBankedArg reg) 0 0 0) s =
        .next ((s.setCell dst (s.cell (.banked reg))).advance))

/-- R90, R91: a performed `MSR`, A32 (`msrA1`) and T32 (`msrT1`), completes and copies `Rn`, as the current mode sees
it, into the named register: all 32 bits, through `Legal` for an SPSR copy that does not keep every bit. -/
def Obligations.MsrWordRowsCopyRegister : Prop :=
  ∀ (s : State) (rn : GprNum) (reg : BankedReg) (src : Reg),
    curBank s.mode rn = some src → performedFrom s reg = true →
    (∀ cond : Cond, conditionPassed cond s = true →
      exec (.msrA1 cond rn (encodeBankedArg reg) 0b1111 0) s =
        .next ((s.writeBanked reg (s.cell src)).advance)) ∧
    ((rn = 13 → s.params.t32R13Unpredictable = false) →
      exec (.msrT1 rn (encodeBankedArg reg) 0 0 0) s = .next ((s.writeBanked reg (s.cell src)).advance)) ∧
    ((isSpsr reg = false ∨ s.params.spsrKeepMask = BitVec.allOnes 32) →
      s.writeBanked reg (s.cell src) = s.setCell (.banked reg) (s.cell src))

/-- R81, R91: each of the 33 argument rows (`argR8Usr` to `argSpsrHyp`), in either direction and any encoding whose
checks pass, completes with the copy the row names. -/
def Obligations.ArgumentRowsCopyRegister : Prop :=
  ∀ (s : State) (f : Form) (reg : BankedReg) (gpr : Reg),
    formPasses f s = true → f.shouldBeOk = true → badGpr f s.params = false →
    curBank s.mode f.gpr = some gpr → performedFrom s reg = true →
    (f.direction = .mrs →
      exec (Instr.ofBanked f reg) s = .next ((s.setCell gpr (s.cell (.banked reg))).advance)) ∧
    (f.direction = .msr →
      exec (Instr.ofBanked f reg) s = .next ((s.writeBanked reg (s.cell gpr)).advance))

/-- R94: `Legal` keeps the value where the register is no SPSR copy or every bit is kept, and for an SPSR copy keeps
the bits of `SPSR_KEEP_MASK`; the other bits are left to a free value (log 11). -/
def Obligations.SpsrWriteKeepsMaskedBits : Prop :=
  ∀ (s : State) (reg : BankedReg) (v : Word),
    (isSpsr reg = false → (s.writeBanked reg v).cell (.banked reg) = v) ∧
    (isSpsr reg = true →
      (s.writeBanked reg v).cell (.banked reg) &&& s.params.spsrKeepMask = v &&& s.params.spsrKeepMask) ∧
    (s.params.spsrKeepMask = 0xFFFFFFFF → (s.writeBanked reg v).cell (.banked reg) = v)

/-- R57: the condition table, the T32 forms unconditional, and a failed condition makes every instruction a step of
`pc` and nothing else, whatever else is wrong with it (R82 case 6, R92 case 7). That the condition comes before every
other check is the spec's decision D16 (log 12), that T32 forms are outside an IT block its premise D19 (log 14). -/
def Obligations.FailedConditionOnlyAdvances : Prop :=
  (∀ s : State,
    (conditionPassed .eq s = true ↔ s.flagZ = true) ∧ (conditionPassed .ne s = true ↔ s.flagZ = false) ∧
    (conditionPassed .cs s = true ↔ s.flagC = true) ∧ (conditionPassed .cc s = true ↔ s.flagC = false) ∧
    (conditionPassed .mi s = true ↔ s.flagN = true) ∧ (conditionPassed .pl s = true ↔ s.flagN = false) ∧
    (conditionPassed .vs s = true ↔ s.flagV = true) ∧ (conditionPassed .vc s = true ↔ s.flagV = false) ∧
    (conditionPassed .hi s = true ↔ s.flagC = true ∧ s.flagZ = false) ∧
    (conditionPassed .ls s = true ↔ s.flagC = false ∨ s.flagZ = true) ∧
    (conditionPassed .ge s = true ↔ s.flagN = s.flagV) ∧
    (conditionPassed .lt s = true ↔ s.flagN ≠ s.flagV) ∧
    (conditionPassed .gt s = true ↔ s.flagZ = false ∧ s.flagN = s.flagV) ∧
    (conditionPassed .le s = true ↔ s.flagZ = true ∨ s.flagN ≠ s.flagV) ∧
    conditionPassed .al s = true) ∧
  (∀ (f : Form) (s : State), f.iset = .t32 → formPasses f s = true) ∧
  (∀ (s : State) (cond : Cond), conditionPassed cond s = false →
    (∀ rd arg hi lo, exec (.mrsA1 cond rd arg hi lo) s = .next s.advance) ∧
    (∀ rn arg sbo sbz, exec (.msrA1 cond rn arg sbo sbz) s = .next s.advance)) ∧
  ∀ (f : Form) (s : State), formPasses f s = false →
    (∀ reg, exec (Instr.ofBanked f reg) s = .next s.advance) ∧
    ∀ arg, exec (.argConstrainedUnpredictable arg f) s = .next s.advance

/-- R83: what `MRS` leaves unchanged. The one cell that may change is `Rd` as the current mode sees it. -/
def Obligations.MrsFrame : Prop :=
  ∀ (i : Instr) (s t : State), i.form.direction = .mrs → exec i s = .next t →
    (∀ q : Reg, curBank s.mode i.form.gpr ≠ some q → t.cell q = s.cell q) ∧
    (∀ reg : BankedReg, isSpsr reg = true → t.cell (.banked reg) = s.cell (.banked reg)) ∧
    t.cell (.banked .elr_hyp) = s.cell (.banked .elr_hyp) ∧
    t.mode = s.mode ∧ t.secure = s.secure ∧
    t.flagN = s.flagN ∧ t.flagZ = s.flagZ ∧ t.flagC = s.flagC ∧ t.flagV = s.flagV ∧
    t.iset = s.iset ∧ t.params = s.params ∧ t.draws = s.draws ∧
    ∀ a : Word, t.readMem a = s.readMem a

/-- R93: what `MSR` leaves unchanged. The one cell that may change is the register its argument names, which is
never one of R0 to R7. -/
def Obligations.MsrFrame : Prop :=
  ∀ (i : Instr) (s t : State), i.form.direction = .msr → exec i s = .next t →
    (∀ q : Reg, (decodeBankedArg i.argument).map Reg.banked ≠ some q → t.cell q = s.cell q) ∧
    (∀ k : Fin 8, t.cell (.low k) = s.cell (.low k)) ∧
    t.mode = s.mode ∧ t.secure = s.secure ∧
    t.flagN = s.flagN ∧ t.flagZ = s.flagZ ∧ t.flagC = s.flagC ∧ t.flagV = s.flagV ∧
    t.iset = s.iset ∧ t.params = s.params ∧
    (s.params.spsrKeepMask = 0xFFFFFFFF → t.draws = s.draws) ∧
    ∀ a : Word, t.readMem a = s.readMem a

/-- R82 case 3, R92 case 3: a performed instruction never copies a cell to itself. -/
def Obligations.SourceIsNeverDestination : Prop :=
  ∀ (f : Form) (c : ArgCode) (s : State) (reg : BankedReg) (gpr : Reg),
    checkBankedAccess f c s = .proceed reg → curBank s.mode f.gpr = some gpr → gpr ≠ .banked reg

/-- R92 case 10: `MSR` and then `MRS` of the same register from the same mode gives the value written back, on the
kept bits for an SPSR copy; the `MRS` completes whenever its own condition and fields allow it. -/
def Obligations.MsrThenMrsReturnsValue : Prop :=
  ∀ (f g : Form) (c : ArgCode) (s t : State) (reg : BankedReg) (src dst : Reg),
    f.direction = .msr → g.direction = .mrs → decodeBankedArg c = some reg →
    formPasses f s = true → formPasses g s = true → g.shouldBeOk = true → badGpr g s.params = false →
    curBank s.mode f.gpr = some src → curBank s.mode g.gpr = some dst →
    exec (Instr.ofWord f c) s = .next t →
    ∃ u, exec (Instr.ofWord g c) t = .next u ∧
      (isSpsr reg = false → u.cell dst = s.cell src ∧ u.cell (.banked reg) = s.cell src) ∧
      (isSpsr reg = true → u.cell dst &&& s.params.spsrKeepMask = s.cell src &&& s.params.spsrKeepMask)

/-- R82 case 9: `MRS` executed twice in a row completes again and leaves every register as the first left it. -/
def Obligations.MrsTwiceIsMrsOnce : Prop :=
  ∀ (i : Instr) (s t : State), i.form.direction = .mrs → exec i s = .next t →
    ∃ u, exec i t = .next u ∧ ∀ q : Reg, u.cell q = t.cell q

/-! ### Who may access what -/

/-- R61, R62, R63: the Hyp registers are out of reach from Non-secure EL1 and from a Secure mode other than Monitor
mode, the Monitor registers from Non-secure EL1 and EL2. -/
def Obligations.SecurityStateRestrictions : Prop :=
  ∀ (i : Instr) (s : State) (reg : BankedReg),
    decodeBankedArg i.argument = some reg → formPasses i.form s = true →
    (s.mode.isEl1Mode = true → s.secure = false → isHypReg reg = true →
      ∃ why, exec i s = .fault (.unpredictable why)) ∧
    (s.mode.isEl1Mode = true ∨ s.mode = .hyp → s.secure = false → isMonitorReg reg = true →
      ∃ why, exec i s = .fault (.unpredictable why)) ∧
    (s.mode.isEl1Mode = true → s.secure = true → isHypReg reg = true →
      ∃ why, exec i s = .fault (.unpredictable why))

/-- R64 to R68: for each mode the registers that cannot be accessed are exactly the listed ones, among those that are
implemented, for an instruction whose other checks pass. -/
def Obligations.InaccessibleRegistersByMode : Prop :=
  ∀ (i : Instr) (s : State) (reg : BankedReg),
    s.modeOk = true → decodeBankedArg i.argument = some reg → implemented s.params reg = true →
    formPasses i.form s = true → i.form.shouldBeOk = true → badGpr i.form s.params = false →
    (s.mode = .monitor → ((∃ why, exec i s = .fault (.unpredictable why)) ↔
      reg ∈ [.r8_usr, .r9_usr, .r10_usr, .r11_usr, .r12_usr, .sp_mon, .lr_mon, .spsr_mon])) ∧
    (s.mode = .hyp → ((∃ why, exec i s = .fault (.unpredictable why)) ↔
      reg ∈ [.sp_mon, .lr_mon, .spsr_mon,
        .r8_usr, .r9_usr, .r10_usr, .r11_usr, .r12_usr, .sp_hyp, .lr_usr, .spsr_hyp])) ∧
    (s.mode.isEl1Mode = true → ((∃ why, exec i s = .fault (.unpredictable why)) ↔
      (s.secure = false ∧ reg ∈ [.sp_mon, .lr_mon, .spsr_mon]) ∨
      reg ∈ [.sp_hyp, .spsr_hyp, .elr_hyp] ∨
      reg ∈ (match s.mode with
        | .fiq => [.r8_fiq, .r9_fiq, .r10_fiq, .r11_fiq, .r12_fiq, .sp_fiq, .lr_fiq, .spsr_fiq]
        | .system => [.r8_usr, .r9_usr, .r10_usr, .r11_usr, .r12_usr, .sp_usr, .lr_usr]
        | .supervisor => [.r8_usr, .r9_usr, .r10_usr, .r11_usr, .r12_usr, .sp_svc, .lr_svc, .spsr_svc]
        | .abort => [.r8_usr, .r9_usr, .r10_usr, .r11_usr, .r12_usr, .sp_abt, .lr_abt, .spsr_abt]
        | .undefined => [.r8_usr, .r9_usr, .r10_usr, .r11_usr, .r12_usr, .sp_und, .lr_und, .spsr_und]
        | .irq => [.r8_usr, .r9_usr, .r10_usr, .r11_usr, .r12_usr, .sp_irq, .lr_irq, .spsr_irq]
        | .user | .hyp | .monitor => [] : List BankedReg)))

/-- R74: what every instruction does with a register argument is what the whole matrix says, for every mode, Security
state and setting of the parameters. -/
def Obligations.AccessFollowsMatrix : Prop :=
  ∀ (i : Instr) (s : State) (reg : BankedReg),
    s.modeOk = true → decodeBankedArg i.argument = some reg →
    formPasses i.form s = true → i.form.shouldBeOk = true → badGpr i.form s.params = false →
    match matrixAccess s reg with
    | .proceed r => r = reg ∧ ∃ t, exec i s = .next t
    | .trapToEl3 => exec i s = .fault (.trapToEl3 s)
    | .unpredictable why => exec i s = .fault (.unpredictable why)
    | .skip => False

/-- The counts under R74: how many registers are performed from each mode, with EL2 and EL3. -/
def Obligations.MatrixColumnCounts : Prop :=
  (∀ m : Mode, (bankedRegs.filter fun r => matrixCell r m == some .ok).length =
    match m with
    | .user => 0
    | .fiq | .irq | .supervisor | .abort | .undefined => 19
    | .system => 20
    | .hyp => 22
    | .monitor => 25) ∧
  ∀ m : Mode, (bankedRegs.filter fun r => matrixCell r m == some .sec).length = if m.isEl1Mode then 3 else 0

/-- R54: the 31 codes, and that an instruction with one of them is CONSTRAINED UNPREDICTABLE whatever the mode, for the
reason `BadSYSm` where no earlier check fires. (A failed A32 condition comes before, R57.) -/
def Obligations.UnpredictableCodesStop : Prop :=
  ∀ c : ArgCode,
    (decodeBankedArg c = none ↔
      (c.r = 0 ∧ c.sysm ∈ [0b00111, 0b01111, 0b11000, 0b11001, 0b11010, 0b11011]) ∨
      (c.r = 1 ∧ c.sysm ∉ [0b01110, 0b10000, 0b10010, 0b10100, 0b10110, 0b11100, 0b11110])) ∧
    ∀ (f : Form) (s : State), decodeBankedArg c = none → formPasses f s = true →
      ∃ why, exec (Instr.ofWord f c) s = .fault (.unpredictable why) ∧
        exec (.argConstrainedUnpredictable c f) s = .fault (.unpredictable why) ∧
        (f.shouldBeOk = true → badGpr f s.params = false → s.mode ≠ .user → why = .badSysm)

/-- R50, R52: a wrong should-be bit, and register 15 (or 13 in T32 under the older reading), are Unpredictable for
every instruction whose condition passes. -/
def Obligations.WrongFieldsAreUnpredictable : Prop :=
  ∀ (i : Instr) (s : State), formPasses i.form s = true →
    (i.form.shouldBeOk = false → exec i s = .fault (.unpredictable .shouldBeBits)) ∧
    (i.form.shouldBeOk = true → i.form.gpr = 15 → exec i s = .fault (.unpredictable .badGpr)) ∧
    (i.form.shouldBeOk = true → i.form.iset = .t32 → i.form.gpr = 13 → s.params.t32R13Unpredictable = true →
      exec i s = .fault (.unpredictable .badGpr))

/-- R60, R99: in User mode no instruction transfers anything: where its condition passes it stops, for the reason
`UserMode` where its fields are right (R75 step 4). That one whose condition fails only advances is R57 and R75 step
1, the spec's decision D16 that the condition comes first (log 12, DESIGN CHOICE, unsafe), not R60 or R99. -/
def Obligations.UserModeTransfersNothing : Prop :=
  ∀ (i : Instr) (s : State), s.mode = .user →
    (formPasses i.form s = false → exec i s = .next s.advance) ∧
    (formPasses i.form s = true → ∃ why, exec i s = .fault (.unpredictable why) ∧
      (i.form.shouldBeOk = true → badGpr i.form s.params = false → why = .userMode))

/-- R69, R101, R105: the trap to EL3 is taken exactly under its condition, and leaves the state as it was: no register
written and `pc` not advanced. That a failed condition keeps the trap off is decision D16 (log 12). -/
def Obligations.TrapToEl3Exactly : Prop :=
  ∀ (i : Instr) (s : State) (reg : BankedReg), s.modeOk = true → decodeBankedArg i.argument = some reg →
    ((∃ t, exec i s = .fault (.trapToEl3 t)) ↔
      s.params.haveEl3 = true ∧ s.params.el3UsesAarch32 = false ∧ s.secure = true ∧
      s.mode ∈ [.fiq, .irq, .supervisor, .abort, .undefined, .system] ∧
      reg ∈ [.sp_mon, .lr_mon, .spsr_mon] ∧
      formPasses i.form s = true ∧ i.form.shouldBeOk = true ∧ badGpr i.form s.params = false) ∧
    ∀ t, exec i s = .fault (.trapToEl3 t) → t = s

/-- R18: the whole table of current mode registers, every column of every mode, and with it the two sets the source
works out, Hyp mode's (with `ELR_hyp`) and Abort mode's. -/
def Obligations.WorkedRegisterSets : Prop :=
  (∀ (m : Mode) (i : GprNum), i.toNat ≤ 7 → ∃ k : Fin 8, k.val = i.toNat ∧ curBank m i = some (.low k)) ∧
  (∀ m : Mode, [8, 9, 10, 11, 12].map (curBank m) =
    (match m with
      | .fiq => [BankedReg.r8_fiq, .r9_fiq, .r10_fiq, .r11_fiq, .r12_fiq]
      | .user | .system | .hyp | .supervisor | .abort | .undefined | .monitor | .irq =>
        [.r8_usr, .r9_usr, .r10_usr, .r11_usr, .r12_usr]).map (fun r => some (.banked r))) ∧
  (∀ m : Mode, (curBank m 13, curBank m 14, currentSpsr m, currentElr m) =
    match m with
    | .user => (some (.banked .sp_usr), some (.banked .lr_usr), none, none)
    | .system => (some (.banked .sp_usr), some (.banked .lr_usr), none, none)
    | .hyp => (some (.banked .sp_hyp), some (.banked .lr_usr), some .spsr_hyp, some .elr_hyp)
    | .supervisor => (some (.banked .sp_svc), some (.banked .lr_svc), some .spsr_svc, none)
    | .abort => (some (.banked .sp_abt), some (.banked .lr_abt), some .spsr_abt, none)
    | .undefined => (some (.banked .sp_und), some (.banked .lr_und), some .spsr_und, none)
    | .monitor => (some (.banked .sp_mon), some (.banked .lr_mon), some .spsr_mon, none)
    | .irq => (some (.banked .sp_irq), some (.banked .lr_irq), some .spsr_irq, none)
    | .fiq => (some (.banked .sp_fiq), some (.banked .lr_fiq), some .spsr_fiq, none)) ∧
  currentModeRegisters .hyp =
    [.low 0, .low 1, .low 2, .low 3, .low 4, .low 5, .low 6, .low 7, .banked .r8_usr, .banked .r9_usr,
      .banked .r10_usr, .banked .r11_usr, .banked .r12_usr, .banked .sp_hyp, .banked .lr_usr, .banked .spsr_hyp,
      .banked .elr_hyp] ∧
  currentModeRegisters .abort =
    [.low 0, .low 1, .low 2, .low 3, .low 4, .low 5, .low 6, .low 7, .banked .r8_usr, .banked .r9_usr,
      .banked .r10_usr, .banked .r11_usr, .banked .r12_usr, .banked .sp_abt, .banked .lr_abt, .banked .spsr_abt]

/-- R22 (general knowledge, D5; log 27): the whole map from modes to Exception levels. It meets the machine in two
places: a step never changes the level (R20, R21), and an instruction that completes at EL0 transfers nothing (R60):
its condition has failed, and that it then only advances is R57 and decision D16 (log 12). -/
def Obligations.ExceptionLevelOfModes : Prop :=
  (∀ s : State,
    (s.mode = .user → exceptionLevel s = .el0) ∧ (s.mode = .hyp → exceptionLevel s = .el2) ∧
    (s.mode = .monitor → exceptionLevel s = .el3) ∧
    (s.mode ∈ [.fiq, .irq, .supervisor, .abort, .undefined, .system] →
      (s.secure = true ∧ s.params.haveEl3 = true ∧ s.params.el3UsesAarch32 = true → exceptionLevel s = .el3) ∧
      (¬(s.secure = true ∧ s.params.haveEl3 = true ∧ s.params.el3UsesAarch32 = true) → exceptionLevel s = .el1))) ∧
  (∀ s t : State, step s = .next t → exceptionLevel t = exceptionLevel s) ∧
  ∀ (i : Instr) (s t : State), exceptionLevel s = .el0 → exec i s = .next t → t = s.advance

/-! ### The whole machine -/

/-- R29, R33: every step keeps the well-formedness premises: the modes stay legal, `pc` stays aligned and memory stays
in canonical form. -/
def Obligations.StepKeepsWellFormed : Prop :=
  ∀ s t : State, s.wellFormed = true → step s = .next t → t.wellFormed = true

/-- The reset state, whose values are the model's choice (logs 2 to 7), meets the well-formedness premises (R29, R121). -/
def Obligations.ResetIsWellFormed : Prop := State.reset.wellFormed = true

/-- The reset state is the model's choice where R120 leaves it open (logs 4 to 7, 11), and since a program is given at
launch (R35), a step from it with nothing loaded is stuck. -/
def Obligations.ResetControlState : Prop :=
  State.reset.pc = 0 ∧ State.reset.mode = .supervisor ∧ State.reset.secure = true ∧ State.reset.iset = .a32 ∧
  State.reset.flagN = false ∧ State.reset.flagZ = false ∧ State.reset.flagC = false ∧ State.reset.flagV = false ∧
  State.reset.imem = [] ∧ State.reset.params.spsrKeepMask = 0xFFFFFFFF ∧
  (∀ k : Fin 41, State.reset.bank[k] = Config.unknownAtReset k.val) ∧
  step State.reset = .fault .fetchUndefined

/-- R96, R108: in a run of any length control flow is straight-line, and mode, Security state, flags, instruction set,
parameters and memory stay as they were. -/
def Obligations.RunIsStraightLine : Prop :=
  ∀ (n : Nat) (s t : State), Host.Core.run Sys2Proof.core n s = .next t →
    t.pc = s.pc + BitVec.ofNat 32 (4 * n) ∧ t.mode = s.mode ∧ t.secure = s.secure ∧
    t.flagN = s.flagN ∧ t.flagZ = s.flagZ ∧ t.flagC = s.flagC ∧ t.flagV = s.flagV ∧
    t.iset = s.iset ∧ t.params = s.params ∧ t.imem = s.imem

/-- R8, R102: the closed list of outcomes of a step: a next state, the trap with the state as it was, an
Unpredictable end, a stuck fetch (the model's faults, log 10), or a refusal as NotInScope. -/
def Obligations.StepOutcomesAreClosed : Prop :=
  ∀ s : State,
    (∃ t, step s = .next t) ∨ step s = .fault (.trapToEl3 s) ∨ (∃ why, step s = .fault (.unpredictable why)) ∨
    step s = .fault .fetchMisaligned ∨ step s = .fault .fetchUndefined ∨
    ∃ what, step s = .refused (.notInScope what)

/-- R70, R107: registers that are not accessible from the current Privilege level and Security state neither change
nor leak in a run of any length: from two well-formed states that differ only in protected registers, if one
runs `n` steps so does the other, to states that again differ only there, and the protected cells keep their values. -/
def Obligations.ProtectedRegistersAreIsolated : Prop :=
  ∀ (n : Nat) (s₁ s₂ t₁ : State), s₁.modeOk = true → s₂ = { s₁ with bank := s₂.bank } →
    (∀ q : Reg, (∀ reg, q = .banked reg → protectedReg s₁ reg = false) → s₁.cell q = s₂.cell q) →
    Host.Core.run Sys2Proof.core n s₁ = .next t₁ →
    (∀ reg, protectedReg s₁ reg = true → t₁.cell (.banked reg) = s₁.cell (.banked reg)) ∧
    ∃ t₂, Host.Core.run Sys2Proof.core n s₂ = .next t₂ ∧ t₂ = { t₁ with bank := t₂.bank } ∧
      ∀ q : Reg, (∀ reg, q = .banked reg → protectedReg s₁ reg = false) → t₁.cell q = t₂.cell q

/-- R76, R96, R125: whether a run of `n` steps is safe is decided at its start. From a state with legal modes, the run
reaches a next state, and `safeFor` says so, exactly when each of the `n` words from `pc` on is one of the two
instructions and, read in the mode, Security state, flags and parameters of the start, either fails its condition
or has right fields and names a register the matrix of R74 performs. No register's value takes part. That a
failed condition is safe whatever else is wrong is decision D16 (log 12). -/
def Obligations.SafeRunsAreDecidedAtStart : Prop :=
  ∀ (n : Nat) (s : State), s.modeOk = true →
    (safeFor n s = true ↔ ∃ t, Host.Core.run Sys2Proof.core n s = .next t) ∧
    (safeFor n s = true ↔
      ∀ k < n, ∃ bytes i,
        fetch { s with pc := s.pc + BitVec.ofNat 32 (4 * k) } = .ok bytes ∧ decode s.iset bytes = .ok i ∧
        (formPasses i.form s = false ∨
          i.form.shouldBeOk = true ∧ badGpr i.form s.params = false ∧
            ∃ reg, decodeBankedArg i.argument = some reg ∧ performedFrom s reg = true))
end

