-- ==== Sys2Proof/Laws/State.lean ====
section
/-! SUPPORT. The small lemmas of State: each field after each update, and the cells. -/

namespace Sys2Proof.Machine

/-! ### The 41 cells are distinct (10_state R11) -/

/-- The 41 register names in the order of their cells. -/
def cellNames : List Reg :=
  [.low 0, .low 1, .low 2, .low 3, .low 4, .low 5,
   .low 6, .low 7, .banked .r8_usr, .banked .r9_usr, .banked .r10_usr, .banked .r11_usr,
   .banked .r12_usr, .banked .r8_fiq, .banked .r9_fiq, .banked .r10_fiq, .banked .r11_fiq, .banked .r12_fiq,
   .banked .sp_usr, .banked .sp_hyp, .banked .sp_svc, .banked .sp_abt, .banked .sp_und, .banked .sp_mon,
   .banked .sp_irq, .banked .sp_fiq, .banked .lr_usr, .banked .lr_svc, .banked .lr_abt, .banked .lr_und,
   .banked .lr_mon, .banked .lr_irq, .banked .lr_fiq, .banked .spsr_hyp, .banked .spsr_svc, .banked .spsr_abt,
   .banked .spsr_und, .banked .spsr_mon, .banked .spsr_irq, .banked .spsr_fiq, .banked .elr_hyp]

theorem cellNames_getElem_cellIndex (r : Reg) : cellNames[(cellIndex r).val]? = some r := by
  cases r with
  | low i => revert i; decide
  | banked b => cases b <;> rfl

theorem cellIndex_inj {a b : Reg} (h : cellIndex a = cellIndex b) : a = b := by
  have ha := cellNames_getElem_cellIndex a
  rw [h, cellNames_getElem_cellIndex b] at ha
  exact (Option.some.inj ha).symm

@[simp] theorem cellIndex_eq_iff {a b : Reg} : cellIndex a = cellIndex b ↔ a = b :=
  ⟨cellIndex_inj, fun h => h ▸ rfl⟩

theorem State.cell_setCell (s : State) (r q : Reg) (v : Word) :
    (s.setCell r v).cell q = if q = r then v else s.cell q := by
  simp only [State.cell, State.setCell, Fin.getElem_fin, Vector.getElem_set, Fin.val_inj, cellIndex_eq_iff]
  by_cases h : q = r
  · simp [h]
  · simp [h, Ne.symm h]

@[simp] theorem State.cell_setCell_self (s : State) (r : Reg) (v : Word) : (s.setCell r v).cell r = v := by
  simp [State.cell_setCell]

theorem State.cell_setCell_of_ne {r q : Reg} (s : State) (v : Word) (h : q ≠ r) :
    (s.setCell r v).cell q = s.cell q := by
  simp [State.cell_setCell, h]

/-! ### setCell -/

@[simp] theorem State.setCell_pc (s : State) (r : Reg) (v : Word) : (s.setCell r v).pc = s.pc := rfl
@[simp] theorem State.setCell_mode (s : State) (r : Reg) (v : Word) : (s.setCell r v).mode = s.mode := rfl
@[simp] theorem State.setCell_secure (s : State) (r : Reg) (v : Word) : (s.setCell r v).secure = s.secure := rfl
@[simp] theorem State.setCell_flagN (s : State) (r : Reg) (v : Word) : (s.setCell r v).flagN = s.flagN := rfl
@[simp] theorem State.setCell_flagZ (s : State) (r : Reg) (v : Word) : (s.setCell r v).flagZ = s.flagZ := rfl
@[simp] theorem State.setCell_flagC (s : State) (r : Reg) (v : Word) : (s.setCell r v).flagC = s.flagC := rfl
@[simp] theorem State.setCell_flagV (s : State) (r : Reg) (v : Word) : (s.setCell r v).flagV = s.flagV := rfl
@[simp] theorem State.setCell_iset (s : State) (r : Reg) (v : Word) : (s.setCell r v).iset = s.iset := rfl
@[simp] theorem State.setCell_imem (s : State) (r : Reg) (v : Word) : (s.setCell r v).imem = s.imem := rfl
@[simp] theorem State.setCell_params (s : State) (r : Reg) (v : Word) : (s.setCell r v).params = s.params := rfl
@[simp] theorem State.setCell_draws (s : State) (r : Reg) (v : Word) : (s.setCell r v).draws = s.draws := rfl

/-! ### advance -/

@[simp] theorem State.advance_pc (s : State) : s.advance.pc = s.pc + 4 := rfl
@[simp] theorem State.advance_bank (s : State) : s.advance.bank = s.bank := rfl
@[simp] theorem State.advance_cell (s : State) (r : Reg) : s.advance.cell r = s.cell r := rfl
@[simp] theorem State.advance_mode (s : State) : s.advance.mode = s.mode := rfl
@[simp] theorem State.advance_secure (s : State) : s.advance.secure = s.secure := rfl
@[simp] theorem State.advance_flagN (s : State) : s.advance.flagN = s.flagN := rfl
@[simp] theorem State.advance_flagZ (s : State) : s.advance.flagZ = s.flagZ := rfl
@[simp] theorem State.advance_flagC (s : State) : s.advance.flagC = s.flagC := rfl
@[simp] theorem State.advance_flagV (s : State) : s.advance.flagV = s.flagV := rfl
@[simp] theorem State.advance_iset (s : State) : s.advance.iset = s.iset := rfl
@[simp] theorem State.advance_imem (s : State) : s.advance.imem = s.imem := rfl
@[simp] theorem State.advance_params (s : State) : s.advance.params = s.params := rfl
@[simp] theorem State.advance_draws (s : State) : s.advance.draws = s.draws := rfl

/-! ### writeBanked -/

/-- What a write to a banked register can do: one cell, and the count of free values where one was drawn. -/
theorem State.writeBanked_cases (s : State) (reg : BankedReg) (v : Word) :
    (s.writeBanked reg v = s.setCell (.banked reg) v) ∨
    (isSpsr reg = true ∧ s.params.spsrKeepMask ≠ BitVec.allOnes 32 ∧
      s.writeBanked reg v =
        { s.setCell (.banked reg) (legalSpsr s.params.spsrKeepMask (Config.spsrDraw s.draws) v) with
          draws := s.draws + 1 }) := by
  unfold State.writeBanked
  split
  next h => exact .inr ⟨h.1, h.2, rfl⟩
  next => exact .inl rfl

theorem State.writeBanked_of_not_spsr {reg : BankedReg} (s : State) (v : Word) (h : isSpsr reg = false) :
    s.writeBanked reg v = s.setCell (.banked reg) v := by
  simp [State.writeBanked, h]

theorem State.writeBanked_of_keep_all {s : State} (reg : BankedReg) (v : Word)
    (h : s.params.spsrKeepMask = BitVec.allOnes 32) : s.writeBanked reg v = s.setCell (.banked reg) v := by
  simp [State.writeBanked, h]

theorem State.writeBanked_cell_of_ne {reg : BankedReg} {q : Reg} (s : State) (v : Word) (h : q ≠ .banked reg) :
    (s.writeBanked reg v).cell q = s.cell q := by
  unfold State.writeBanked
  split
  · exact State.cell_setCell_of_ne s _ h
  · exact State.cell_setCell_of_ne s _ h

theorem State.writeBanked_cell_self (s : State) (reg : BankedReg) (v : Word) :
    (s.writeBanked reg v).cell (.banked reg) =
      if isSpsr reg then legalSpsr s.params.spsrKeepMask (Config.spsrDraw s.draws) v else v := by
  unfold State.writeBanked
  by_cases hs : isSpsr reg = true <;> by_cases hk : s.params.spsrKeepMask = BitVec.allOnes 32
  · simp [hs, hk, legalSpsr]
  · rw [if_pos ⟨hs, hk⟩, if_pos hs]
    exact State.cell_setCell_self s _ _
  · simp [hs]
  · simp [hs]

@[simp] theorem State.writeBanked_pc (s : State) (reg : BankedReg) (v : Word) :
    (s.writeBanked reg v).pc = s.pc := by
  unfold State.writeBanked; split <;> rfl
@[simp] theorem State.writeBanked_mode (s : State) (reg : BankedReg) (v : Word) :
    (s.writeBanked reg v).mode = s.mode := by
  unfold State.writeBanked; split <;> rfl
@[simp] theorem State.writeBanked_secure (s : State) (reg : BankedReg) (v : Word) :
    (s.writeBanked reg v).secure = s.secure := by
  unfold State.writeBanked; split <;> rfl
@[simp] theorem State.writeBanked_flagN (s : State) (reg : BankedReg) (v : Word) :
    (s.writeBanked reg v).flagN = s.flagN := by
  unfold State.writeBanked; split <;> rfl
@[simp] theorem State.writeBanked_flagZ (s : State) (reg : BankedReg) (v : Word) :
    (s.writeBanked reg v).flagZ = s.flagZ := by
  unfold State.writeBanked; split <;> rfl
@[simp] theorem State.writeBanked_flagC (s : State) (reg : BankedReg) (v : Word) :
    (s.writeBanked reg v).flagC = s.flagC := by
  unfold State.writeBanked; split <;> rfl
@[simp] theorem State.writeBanked_flagV (s : State) (reg : BankedReg) (v : Word) :
    (s.writeBanked reg v).flagV = s.flagV := by
  unfold State.writeBanked; split <;> rfl
@[simp] theorem State.writeBanked_iset (s : State) (reg : BankedReg) (v : Word) :
    (s.writeBanked reg v).iset = s.iset := by
  unfold State.writeBanked; split <;> rfl
@[simp] theorem State.writeBanked_imem (s : State) (reg : BankedReg) (v : Word) :
    (s.writeBanked reg v).imem = s.imem := by
  unfold State.writeBanked; split <;> rfl
@[simp] theorem State.writeBanked_params (s : State) (reg : BankedReg) (v : Word) :
    (s.writeBanked reg v).params = s.params := by
  unfold State.writeBanked; split <;> rfl

/-! ### Legal (42_msr R94) -/

/-- The kept bits of an SPSR hold what was written. -/
theorem legalSpsr_and_keep (keep draw v : Word) : legalSpsr keep draw v &&& keep = v &&& keep := by
  unfold legalSpsr
  split
  · rfl
  · apply BitVec.eq_of_getLsbD_eq
    intro i hi
    by_cases hk : keep.getLsbD i <;> simp [hk]

@[simp] theorem legalSpsr_allOnes (draw v : Word) : legalSpsr (BitVec.allOnes 32) draw v = v := by
  simp [legalSpsr]

end Sys2Proof.Machine
end

