-- ==== Sys2Proof/Laws/Exec.lean ====
section
/-! SUPPORT. What the check, the transfer, an instruction and a step can do, each said once. -/

namespace Sys2Proof.Machine

/-! ### Instructions as a form and an argument -/

/-- Every instruction is the one transfer, on its form and its argument. -/
theorem exec_eq_bankedTransfer (i : Instr) (s : State) : exec i s = bankedTransfer i.form i.argument s := by
  cases i <;> rfl

theorem form_ofBanked (f : Form) (r : BankedReg) : (Instr.ofBanked f r).form = f := by
  cases r <;> rfl

theorem argument_ofBanked (f : Form) (r : BankedReg) : (Instr.ofBanked f r).argument = encodeBankedArg r := by
  cases r <;> rfl

theorem form_ofWord (f : Form) (c : ArgCode) : (Instr.ofWord f c).form = f := by
  cases f <;> rfl

theorem argument_ofWord (f : Form) (c : ArgCode) : (Instr.ofWord f c).argument = c := by
  cases f <;> rfl

theorem decodeBankedArg_encodeBankedArg (r : BankedReg) : decodeBankedArg (encodeBankedArg r) = some r := by
  cases r <;> rfl

theorem encodeBankedArg_of_decode {c : ArgCode} {r : BankedReg} (h : decodeBankedArg c = some r) :
    encodeBankedArg r = c := by
  have all : ∀ (b : BitVec 1) (m : BitVec 5),
      ((decodeBankedArg ⟨b, m⟩).map encodeBankedArg).getD ⟨b, m⟩ = ⟨b, m⟩ := by decide
  have := all c.r c.sysm
  simpa [h] using this

theorem form_ofArgument (f : Form) (c : ArgCode) : (Instr.ofArgument f c).form = f := by
  unfold Instr.ofArgument
  split
  · exact form_ofBanked f _
  · rfl

theorem argument_ofArgument (f : Form) (c : ArgCode) : (Instr.ofArgument f c).argument = c := by
  unfold Instr.ofArgument
  split
  next h => rw [argument_ofBanked, encodeBankedArg_of_decode h]
  · rfl

/-! ### The check of one access (40_access R75) -/

/-- When a check proceeds: the condition passes, the should-be bits and the register number are right, the mode is
not User, the validity function lets the access through, and the code names the register, which is not trapped. -/
theorem checkBankedAccess_eq_proceed_iff (f : Form) (c : ArgCode) (s : State) (reg : BankedReg) :
    checkBankedAccess f c s = .proceed reg ↔
      formPasses f s = true ∧ f.shouldBeOk = true ∧ badGpr f s.params = false ∧ s.mode ≠ .user ∧
      accessValid c s = none ∧ decodeBankedArg c = some reg ∧
      (isMonitorReg reg && !s.params.el3UsesAarch32) = false := by
  unfold checkBankedAccess
  split_ifs with h1 h2 h3 h4
  · simp [h1]
  · simp [h2]
  · simp [h3]
  · simp [h4]
  · have h1' : formPasses f s = true := by simpa using h1
    have h2' : f.shouldBeOk = true := by simpa using h2
    have h3' : badGpr f s.params = false := by simpa using h3
    cases hv : accessValid c s with
    | some why => simp
    | none =>
      cases hd : decodeBankedArg c with
      | none => simp
      | some r =>
        by_cases hm : (isMonitorReg r && !s.params.el3UsesAarch32) = true
        · simp only [hm, if_true]
          constructor
          · intro h; cases h
          · rintro ⟨-, -, -, -, -, hr, hb⟩
            cases hr
            rw [hm] at hb
            cases hb
        · have hm' : (isMonitorReg r && !s.params.el3UsesAarch32) = false := by simpa using hm
          simp only [hm', Bool.false_eq_true, if_false, Access.proceed.injEq, Option.some.injEq]
          constructor
          · rintro rfl
            exact ⟨h1', h2', h3', h4, trivial, rfl, hm'⟩
          · exact fun h => h.2.2.2.2.2.1

/-- A check skips exactly when the condition fails (R57, R75 step 1). -/
theorem checkBankedAccess_eq_skip_iff (f : Form) (c : ArgCode) (s : State) :
    checkBankedAccess f c s = .skip ↔ formPasses f s = false := by
  unfold checkBankedAccess
  split_ifs with h1 h2 h3 h4
  · simp [h1]
  all_goals simp only [h1, iff_false, reduceCtorEq]
  split
  · simp
  · split
    · simp
    · split_ifs <;> simp

/-- A check that proceeds names a general-purpose register other than 15. -/
theorem curBank_isSome_of_badGpr_false {f : Form} {p : Params} (m : Mode) (h : badGpr f p = false) :
    ∃ g, curBank m f.gpr = some g := by
  have h15 : f.gpr ≠ 15 := by
    intro he
    simp [badGpr, he] at h
  have all : ∀ i : BitVec 4, i ≠ 15 → (curBank m i).isSome = true := by
    cases m <;> decide
  exact Option.isSome_iff_exists.mp (all f.gpr h15)

/-! ### The transfer -/

/-- The state a performed `MRS` leaves (R80). -/
def mrsResult (s : State) (gpr : Reg) (reg : BankedReg) : State :=
  (s.setCell gpr (s.cell (.banked reg))).advance

/-- The state a performed `MSR` leaves (R90). -/
def msrResult (s : State) (gpr : Reg) (reg : BankedReg) : State :=
  (s.writeBanked reg (s.cell gpr)).advance

theorem performTransfer_of_curBank {f : Form} {s : State} {gpr : Reg} (reg : BankedReg)
    (h : curBank s.mode f.gpr = some gpr) :
    performTransfer f reg s =
      .next (match f.direction with | .mrs => mrsResult s gpr reg | .msr => msrResult s gpr reg) := by
  unfold performTransfer
  rw [h]
  cases f.direction <;> rfl

/-- All a transfer that answers a next state can do: nothing but advance, or one of the two copies. -/
theorem bankedTransfer_next {f : Form} {c : ArgCode} {s t : State} (h : bankedTransfer f c s = .next t) :
    (formPasses f s = false ∧ t = s.advance) ∨
    ∃ reg gpr, checkBankedAccess f c s = .proceed reg ∧ curBank s.mode f.gpr = some gpr ∧
      ((f.direction = .mrs ∧ t = mrsResult s gpr reg) ∨ (f.direction = .msr ∧ t = msrResult s gpr reg)) := by
  unfold bankedTransfer at h
  cases hc : checkBankedAccess f c s with
  | skip =>
    rw [hc] at h
    cases h
    exact .inl ⟨(checkBankedAccess_eq_skip_iff f c s).mp hc, rfl⟩
  | unpredictable why => rw [hc] at h; cases h
  | trapToEl3 => rw [hc] at h; cases h
  | proceed reg =>
    rw [hc] at h
    obtain ⟨gpr, hg⟩ :=
      curBank_isSome_of_badGpr_false s.mode ((checkBankedAccess_eq_proceed_iff f c s reg).mp hc).2.2.1
    dsimp only at h
    rw [performTransfer_of_curBank reg hg] at h
    refine .inr ⟨reg, gpr, rfl, hg, ?_⟩
    cases hd : f.direction with
    | mrs => rw [hd] at h; cases h; exact .inl ⟨rfl, rfl⟩
    | msr => rw [hd] at h; cases h; exact .inr ⟨rfl, rfl⟩

/-- What no transfer changes (R83, R93): everything but the bank, `pc` and the count of free values. -/
theorem bankedTransfer_next_frame {f : Form} {c : ArgCode} {s t : State} (h : bankedTransfer f c s = .next t) :
    t.pc = s.pc + 4 ∧ t.mode = s.mode ∧ t.secure = s.secure ∧ t.flagN = s.flagN ∧ t.flagZ = s.flagZ ∧
    t.flagC = s.flagC ∧ t.flagV = s.flagV ∧ t.iset = s.iset ∧ t.imem = s.imem ∧ t.params = s.params := by
  rcases bankedTransfer_next h with ⟨-, rfl⟩ | ⟨reg, gpr, -, -, ⟨-, rfl⟩ | ⟨-, rfl⟩⟩
  · simp
  · simp [mrsResult]
  · simp [msrResult]

/-- The outcomes of a transfer (R8): a next state, the trap at this very state, or an Unpredictable end. -/
theorem bankedTransfer_cases (f : Form) (c : ArgCode) (s : State) :
    (∃ t, bankedTransfer f c s = .next t) ∨ bankedTransfer f c s = .fault (.trapToEl3 s) ∨
    ∃ why, bankedTransfer f c s = .fault (.unpredictable why) := by
  unfold bankedTransfer
  cases hc : checkBankedAccess f c s with
  | skip => exact .inl ⟨_, rfl⟩
  | unpredictable why => exact .inr (.inr ⟨why, rfl⟩)
  | trapToEl3 => exact .inr (.inl rfl)
  | proceed reg =>
    obtain ⟨gpr, hg⟩ :=
      curBank_isSome_of_badGpr_false s.mode ((checkBankedAccess_eq_proceed_iff f c s reg).mp hc).2.2.1
    exact .inl ⟨_, performTransfer_of_curBank reg hg⟩

/-- When a transfer answers a next state: exactly when its condition fails or its check proceeds. -/
theorem bankedTransfer_exists_next_iff (f : Form) (c : ArgCode) (s : State) :
    (∃ t, bankedTransfer f c s = .next t) ↔
      formPasses f s = false ∨ ∃ reg, checkBankedAccess f c s = .proceed reg := by
  constructor
  · rintro ⟨t, h⟩
    rcases bankedTransfer_next h with ⟨hp, -⟩ | ⟨reg, gpr, hc, -⟩
    · exact .inl hp
    · exact .inr ⟨reg, hc⟩
  · unfold bankedTransfer
    rintro (hp | ⟨reg, hc⟩)
    · rw [(checkBankedAccess_eq_skip_iff f c s).mpr hp]
      exact ⟨_, rfl⟩
    · rw [hc]
      obtain ⟨gpr, hg⟩ :=
        curBank_isSome_of_badGpr_false s.mode ((checkBankedAccess_eq_proceed_iff f c s reg).mp hc).2.2.1
      exact ⟨_, performTransfer_of_curBank reg hg⟩

/-! ### A step -/

/-- What a step that answers a next state has done: fetched, decoded and executed. -/
theorem step_next {s t : State} (h : step s = .next t) :
    ∃ bytes i, fetch s = .ok bytes ∧ decode s.iset bytes = .ok i ∧ exec i s = .next t := by
  unfold step at h
  split at h
  · cases h
  next bytes hf =>
    split at h
    · cases h
    next i hd => exact ⟨bytes, i, hf, hd, h⟩

/-- When a step answers a next state: exactly when it fetches and decodes an instruction that does. -/
theorem step_exists_next_iff (s : State) :
    (∃ t, step s = .next t) ↔
      ∃ bytes i, fetch s = .ok bytes ∧ decode s.iset bytes = .ok i ∧ ∃ t, exec i s = .next t := by
  constructor
  · rintro ⟨t, h⟩
    obtain ⟨bytes, i, hf, hd, he⟩ := step_next h
    exact ⟨bytes, i, hf, hd, t, he⟩
  · rintro ⟨bytes, i, hf, hd, t, he⟩
    exact ⟨t, by simp only [step, hf, hd, he]⟩

/-- A fetch that delivers bytes was aligned (R33). -/
theorem pcAligned_of_fetch_ok {s : State} {bytes : List Byte} (h : fetch s = .ok bytes) : pcAligned s = true := by
  unfold fetch at h
  split_ifs at h with ha
  simpa using ha

end Sys2Proof.Machine
end

