-- ==== Sys2Proof/Laws/Encoding.lean ====
section
/-! SUPPORT. The bits of encoded words: each field stands where the layouts of 30_encoding R45 to R48 put it, and bytes
put together give the word they were taken from. -/

namespace Sys2Proof

/-! ### Bytes, halfwords and words -/

theorem wordOfBytes_extract (w : Word) :
    wordOfBytes (w.extractLsb' 0 8) (w.extractLsb' 8 8) (w.extractLsb' 16 8) (w.extractLsb' 24 8) = w := by
  apply BitVec.eq_of_getLsbD_eq
  intro i hi
  interval_cases i <;> simp [wordOfBytes, placed]

theorem halfOfBytes_extract_high (w : Word) :
    halfOfBytes (w.extractLsb' 16 8) (w.extractLsb' 24 8) = w.extractLsb' 16 16 := by
  apply BitVec.eq_of_getLsbD_eq
  intro i hi
  interval_cases i <;> simp [halfOfBytes]

theorem halfOfBytes_extract_low (w : Word) :
    halfOfBytes (w.extractLsb' 0 8) (w.extractLsb' 8 8) = w.extractLsb' 0 16 := by
  apply BitVec.eq_of_getLsbD_eq
  intro i hi
  interval_cases i <;> simp [halfOfBytes]

theorem wordOfHalves_extract (w : Word) : wordOfHalves (w.extractLsb' 16 16) (w.extractLsb' 0 16) = w := by
  apply BitVec.eq_of_getLsbD_eq
  intro i hi
  interval_cases i <;> simp [wordOfHalves, placed]

/-- Decoding the four bytes of an A32 word is decoding the word. -/
theorem decode_a32_bytesOfWord (w : Word) : decode .a32 (bytesOfWord .a32 w) = decodeA32 w := by
  simp only [decode, bytesOfWord, wordOfBytes_extract]

/-- Decoding the four bytes of a 32-bit T32 instruction is decoding `hw1 : hw2`. -/
theorem decode_t32_bytesOfWord {w : Word} (h : isT32Wide (w.extractLsb' 16 16) = true) :
    decode .t32 (bytesOfWord .t32 w) = decodeT32 w := by
  simp only [decode, bytesOfWord, halfOfBytes_extract_high, h, if_true, halfOfBytes_extract_low,
    wordOfHalves_extract]

/-! ### Fields -/

theorem ofBits_bits (c : Cond) : Cond.ofBits c.bits = some c := by
  cases c <;> rfl

theorem bits_of_ofBits {b : BitVec 4} {c : Cond} (h : Cond.ofBits b = some c) : c.bits = b := by
  have all : ∀ b : BitVec 4, ((Cond.ofBits b).map Cond.bits).getD b = b := by decide
  simpa [h] using all b

theorem argOfFields_extract (c : ArgCode) :
    argOfFields c.r (c.sysm.extractLsb' 4 1) (c.sysm.extractLsb' 0 4) = c := by
  obtain ⟨r, m⟩ := c
  simp only [argOfFields, ArgCode.mk.injEq, true_and]
  revert m
  decide

theorem argOfFields_m (r m : BitVec 1) (m1 : BitVec 4) : (argOfFields r m m1).sysm.extractLsb' 4 1 = m := by
  revert m m1
  simp only [argOfFields]
  decide

theorem argOfFields_m1 (r m : BitVec 1) (m1 : BitVec 4) : (argOfFields r m m1).sysm.extractLsb' 0 4 = m1 := by
  revert m m1
  simp only [argOfFields]
  decide

/-- A word that matches a row has the row's value in every bit of the mask. -/
theorem getLsbD_of_matchesRow {mask v w : Word} (h : matchesRow mask v w = true) {i : Nat}
    (hm : mask.getLsbD i = true) : w.getLsbD i = v.getLsbD i := by
  simp only [matchesRow, beq_iff_eq] at h
  simpa [hm] using congrArg (fun x => x.getLsbD i) h

/-- Two rows with the same mask and different matches are exclusive. -/
theorem matchesRow_exclusive {mask v u w : Word} (hne : v ≠ u) (h : matchesRow mask v w = true) :
    matchesRow mask u w = false := by
  simp only [matchesRow, beq_iff_eq, beq_eq_false_iff_ne] at h ⊢
  rw [h]
  exact hne

/-- A word that matches a T32 row begins with `11110`: it is a 32-bit instruction (R53). -/
theorem isT32Wide_of_matchesRow {v w : Word} (hv : v = 0xF3E08020 ∨ v = 0xF3808020)
    (h : matchesRow 0xFFE0D020 v w = true) : isT32Wide (w.extractLsb' 16 16) = true := by
  have top : (w.extractLsb' 16 16).extractLsb' 11 5 = 0b11110 := by
    simp only [matchesRow, beq_iff_eq] at h
    apply BitVec.eq_of_getLsbD_eq
    intro i hi
    have bit := congrArg (fun x => x.getLsbD (i + 27)) h
    rcases hv with rfl | rfl
    all_goals interval_cases i <;> simp at bit ⊢ <;> exact bit
  simp [isT32Wide, top]

/-- Where the fields of an A32 `MRS` stand (R45). -/
theorem fields_mrsA1 {w : Word} (cond : BitVec 4) (r : BitVec 1) (m1 : BitVec 4) (rd : BitVec 4) (hi : BitVec 2) (m : BitVec 1) (lo : BitVec 4)
    (h : w = 0x01000200 ||| placed cond 28 ||| placed r 22 ||| placed m1 16 ||| placed rd 12 ||| placed hi 10 ||| placed m 8 ||| placed lo 0) :
    w.extractLsb' 28 4 = cond ∧
    w.extractLsb' 22 1 = r ∧
    w.extractLsb' 16 4 = m1 ∧
    w.extractLsb' 12 4 = rd ∧
    w.extractLsb' 10 2 = hi ∧
    w.extractLsb' 8 1 = m ∧
    w.extractLsb' 0 4 = lo ∧
    matchesRow 0x0FB002F0 0x01000200 w = true := by
  subst h
  refine ⟨?_, ?_, ?_, ?_, ?_, ?_, ?_, ?_⟩
  case refine_8 =>
    simp only [matchesRow, beq_iff_eq]
    apply BitVec.eq_of_getLsbD_eq
    intro i hi
    interval_cases i <;> simp [placed]
  all_goals
    apply BitVec.eq_of_getLsbD_eq
    intro i hi
    interval_cases i <;> simp [placed]

/-- Where the fields of an A32 `MSR` stand (R46). -/
theorem fields_msrA1 {w : Word} (cond : BitVec 4) (r : BitVec 1) (m1 : BitVec 4) (sbo : BitVec 4) (sbz : BitVec 2) (m : BitVec 1) (rn : BitVec 4)
    (h : w = 0x01200200 ||| placed cond 28 ||| placed r 22 ||| placed m1 16 ||| placed sbo 12 ||| placed sbz 10 ||| placed m 8 ||| placed rn 0) :
    w.extractLsb' 28 4 = cond ∧
    w.extractLsb' 22 1 = r ∧
    w.extractLsb' 16 4 = m1 ∧
    w.extractLsb' 12 4 = sbo ∧
    w.extractLsb' 10 2 = sbz ∧
    w.extractLsb' 8 1 = m ∧
    w.extractLsb' 0 4 = rn ∧
    matchesRow 0x0FB002F0 0x01200200 w = true := by
  subst h
  refine ⟨?_, ?_, ?_, ?_, ?_, ?_, ?_, ?_⟩
  case refine_8 =>
    simp only [matchesRow, beq_iff_eq]
    apply BitVec.eq_of_getLsbD_eq
    intro i hi
    interval_cases i <;> simp [placed]
  all_goals
    apply BitVec.eq_of_getLsbD_eq
    intro i hi
    interval_cases i <;> simp [placed]

/-- Where the fields of a T32 `MRS` stand (R47). -/
theorem fields_mrsT1 {w : Word} (r : BitVec 1) (m1 : BitVec 4) (a : BitVec 1) (rd : BitVec 4) (b : BitVec 2) (m : BitVec 1) (c : BitVec 4)
    (h : w = 0xF3E08020 ||| placed r 20 ||| placed m1 16 ||| placed a 13 ||| placed rd 8 ||| placed b 6 ||| placed m 4 ||| placed c 0) :
    w.extractLsb' 20 1 = r ∧
    w.extractLsb' 16 4 = m1 ∧
    w.extractLsb' 13 1 = a ∧
    w.extractLsb' 8 4 = rd ∧
    w.extractLsb' 6 2 = b ∧
    w.extractLsb' 4 1 = m ∧
    w.extractLsb' 0 4 = c ∧
    matchesRow 0xFFE0D020 0xF3E08020 w = true := by
  subst h
  refine ⟨?_, ?_, ?_, ?_, ?_, ?_, ?_, ?_⟩
  case refine_8 =>
    simp only [matchesRow, beq_iff_eq]
    apply BitVec.eq_of_getLsbD_eq
    intro i hi
    interval_cases i <;> simp [placed]
  all_goals
    apply BitVec.eq_of_getLsbD_eq
    intro i hi
    interval_cases i <;> simp [placed]

/-- Where the fields of a T32 `MSR` stand (R48). -/
theorem fields_msrT1 {w : Word} (r : BitVec 1) (rn : BitVec 4) (a : BitVec 1) (m1 : BitVec 4) (b : BitVec 2) (m : BitVec 1) (c : BitVec 4)
    (h : w = 0xF3808020 ||| placed r 20 ||| placed rn 16 ||| placed a 13 ||| placed m1 8 ||| placed b 6 ||| placed m 4 ||| placed c 0) :
    w.extractLsb' 20 1 = r ∧
    w.extractLsb' 16 4 = rn ∧
    w.extractLsb' 13 1 = a ∧
    w.extractLsb' 8 4 = m1 ∧
    w.extractLsb' 6 2 = b ∧
    w.extractLsb' 4 1 = m ∧
    w.extractLsb' 0 4 = c ∧
    matchesRow 0xFFE0D020 0xF3808020 w = true := by
  subst h
  refine ⟨?_, ?_, ?_, ?_, ?_, ?_, ?_, ?_⟩
  case refine_8 =>
    simp only [matchesRow, beq_iff_eq]
    apply BitVec.eq_of_getLsbD_eq
    intro i hi
    interval_cases i <;> simp [placed]
  all_goals
    apply BitVec.eq_of_getLsbD_eq
    intro i hi
    interval_cases i <;> simp [placed]

end Sys2Proof
end

