-- ==== Sys2Proof/Laws/Memory.lean ====
section
/-! SUPPORT. Instruction memory: a read after a write, and every operation keeps the canonical form. -/

namespace Sys2Proof.Machine

theorem readByte_writeByte_self (m : Memory) (x : Nat) (v : Byte) : readByte (writeByte m x v) x = some v := by
  induction m with
  | nil => simp [writeByte, readByte]
  | cons c rest ih =>
    obtain ⟨a, b⟩ := c
    unfold writeByte
    split_ifs with h1 h2
    · simp [readByte]
    · simp [readByte]
    · simp [readByte, Ne.symm h2, ih]

theorem readByte_writeByte_of_ne {x y : Nat} (m : Memory) (v : Byte) (h : y ≠ x) :
    readByte (writeByte m x v) y = readByte m y := by
  induction m with
  | nil => simp [writeByte, readByte, Ne.symm h]
  | cons c rest ih =>
    obtain ⟨a, b⟩ := c
    unfold writeByte
    split_ifs with h1 h2
    · simp [readByte, Ne.symm h]
    · simp [readByte, ← h2, Ne.symm h]
    · simp [readByte, ih]

theorem risingAbove_writeByte {lo x : Nat} (m : Memory) (v : Byte) (hm : risingAbove lo m = true) (hlo : lo < x)
    (hx : x < 2 ^ 32) : risingAbove lo (writeByte m x v) = true := by
  induction m generalizing lo with
  | nil => simp [writeByte, risingAbove, hlo]; omega
  | cons c rest ih =>
    obtain ⟨a, b⟩ := c
    simp only [risingAbove, Bool.and_eq_true, decide_eq_true_eq] at hm
    obtain ⟨⟨ha, hb⟩, hr⟩ := hm
    unfold writeByte
    split_ifs with h1 h2
    · simp only [risingAbove, Bool.and_eq_true, decide_eq_true_eq]
      exact ⟨⟨hlo, hx⟩, ⟨h1, hb⟩, hr⟩
    · subst h2
      simp only [risingAbove, Bool.and_eq_true, decide_eq_true_eq]
      exact ⟨⟨hlo, hx⟩, hr⟩
    · simp only [risingAbove, Bool.and_eq_true, decide_eq_true_eq]
      exact ⟨⟨ha, hb⟩, ih hr (by omega)⟩

/-- Writing a byte keeps the canonical form. -/
theorem wf_writeByte {x : Nat} (m : Memory) (v : Byte) (hm : Memory.wf m = true) (hx : x < 2 ^ 32) :
    Memory.wf (writeByte m x v) = true := by
  cases m with
  | nil => simp [writeByte, Memory.wf, risingAbove]; omega
  | cons c rest =>
    obtain ⟨a, b⟩ := c
    simp only [Memory.wf, Bool.and_eq_true, decide_eq_true_eq] at hm
    unfold writeByte
    split_ifs with h1 h2
    · simp only [Memory.wf, risingAbove, Bool.and_eq_true, decide_eq_true_eq]
      exact ⟨hx, ⟨h1, hm.1⟩, hm.2⟩
    · subst h2
      simp only [Memory.wf, Bool.and_eq_true, decide_eq_true_eq]
      exact ⟨hx, hm.2⟩
    · simp only [Memory.wf, Bool.and_eq_true, decide_eq_true_eq]
      exact ⟨hm.1, risingAbove_writeByte rest v hm.2 (by omega) hx⟩

/-- Writing bytes from a 32-bit address keeps the canonical form. -/
theorem wf_writeBytes (m : Memory) (a : Word) (bs : List Byte) (hm : Memory.wf m = true) :
    Memory.wf (writeBytes m a bs) = true := by
  induction bs generalizing m a with
  | nil => exact hm
  | cons b rest ih => exact ih _ _ (wf_writeByte m b hm a.isLt)

/-- The memory after reset is in canonical form. -/
theorem wf_reset : Memory.wf State.reset.imem = true := rfl

/-- The load of an instruction keeps the canonical form. -/
theorem wf_loadTableWord (s : State) (nbits w : Nat) (hm : Memory.wf s.imem = true) :
    Memory.wf (loadTableWord s nbits w).imem = true :=
  wf_writeBytes _ _ _ hm

theorem risingAbove_read_eq_none {lo x : Nat} (m : Memory) (hm : risingAbove lo m = true) (hx : x ≤ lo) :
    readByte m x = none := by
  induction m generalizing lo with
  | nil => rfl
  | cons c rest ih =>
    obtain ⟨a, b⟩ := c
    simp only [risingAbove, Bool.and_eq_true, decide_eq_true_eq] at hm
    obtain ⟨⟨ha, _⟩, hr⟩ := hm
    have hne : a ≠ x := by omega
    simp only [readByte, hne, if_false]
    exact ih hr (by omega)

/-- A memory in canonical form whose reads all agree with another's is that memory (rising lists with the same
reads are the same list), stated for the tails. -/
theorem risingAbove_ext {lo : Nat} (m n : Memory) (hm : risingAbove lo m = true) (hn : risingAbove lo n = true)
    (h : ∀ x, lo < x → readByte m x = readByte n x) : m = n := by
  induction m generalizing lo n with
  | nil =>
    cases n with
    | nil => rfl
    | cons c rest =>
      obtain ⟨a, b⟩ := c
      simp only [risingAbove, Bool.and_eq_true, decide_eq_true_eq] at hn
      have := h a hn.1.1
      simp [readByte, unlistedByte] at this
  | cons c rest ih =>
    obtain ⟨a, b⟩ := c
    simp only [risingAbove, Bool.and_eq_true, decide_eq_true_eq] at hm
    cases n with
    | nil =>
      have := h a hm.1.1
      simp [readByte, unlistedByte] at this
    | cons c' rest' =>
      obtain ⟨a', b'⟩ := c'
      simp only [risingAbove, Bool.and_eq_true, decide_eq_true_eq] at hn
      have haa : a = a' := by
        rcases Nat.lt_trichotomy a a' with hl | he | hg
        · have h1 := h a hm.1.1
          have hne : a' ≠ a := by omega
          rw [readByte, if_pos rfl, readByte, if_neg hne, risingAbove_read_eq_none rest' hn.2 (by omega)] at h1
          exact absurd h1 (by simp)
        · exact he
        · have h1 := h a' hn.1.1
          have hne : a ≠ a' := by omega
          rw [readByte, if_neg hne, readByte, if_pos rfl, risingAbove_read_eq_none rest hm.2 (by omega)] at h1
          exact absurd h1 (by simp)
      subst haa
      have hbb : b = b' := by
        have h1 := h a hm.1.1
        simpa [readByte] using h1
      subst hbb
      have : rest = rest' := by
        refine ih rest' hm.2 hn.2 fun x hx => ?_
        have h1 := h x (by omega)
        have hne : a ≠ x := by omega
        simpa [readByte, hne] using h1
      rw [this]

end Sys2Proof.Machine
end

