-- ==== Sys2Proof/Laws/Fetch.lean ====
section
/-! SUPPORT. What a fetch reads: the bytes of two halfwords, and the bytes a load has put there. -/

namespace Sys2Proof.Machine

theorem add_two_add_one (a : Word) : a + 2 + 1 = a + 3 := by
  rw [BitVec.add_assoc]
  rfl

theorem readTwo_of_bytes {s : State} {a : Word} {b0 b1 : Byte} (h0 : s.readMem a = some b0)
    (h1 : s.readMem (a + 1) = some b1) : readTwo s a = some [b0, b1] := by
  unfold readTwo
  rw [h0, h1]

theorem readTwo_eq_none {s : State} {a : Word} (h : s.readMem a = none ∨ s.readMem (a + 1) = none) :
    readTwo s a = none := by
  unfold readTwo
  rcases h with h | h
  · rw [h]
  · rw [h]
    cases s.readMem a <;> rfl

/-- What reading two bytes can answer. -/
theorem readTwo_eq_some {s : State} {a : Word} {bytes : List Byte} (h : readTwo s a = some bytes) :
    ∃ b0 b1, s.readMem a = some b0 ∧ s.readMem (a + 1) = some b1 ∧ bytes = [b0, b1] := by
  unfold readTwo at h
  split at h
  next b0 b1 h0 h1 => exact ⟨b0, b1, h0, h1, (Option.some.inj h).symm⟩
  · cases h

theorem readFour_of_halves {s : State} {a : Word} {lo hi : List Byte} (h0 : readTwo s a = some lo)
    (h1 : readTwo s (a + 2) = some hi) : readFour s a = some (lo ++ hi) := by
  unfold readFour
  rw [h0, h1]

theorem readFour_of_bytes {s : State} {a : Word} {b0 b1 b2 b3 : Byte} (h0 : s.readMem a = some b0)
    (h1 : s.readMem (a + 1) = some b1) (h2 : s.readMem (a + 2) = some b2) (h3 : s.readMem (a + 3) = some b3) :
    readFour s a = some [b0, b1, b2, b3] :=
  readFour_of_halves (readTwo_of_bytes h0 h1) (readTwo_of_bytes h2 (by rwa [add_two_add_one]))

theorem readFour_eq_none {s : State} {a : Word} (h : readTwo s a = none ∨ readTwo s (a + 2) = none) :
    readFour s a = none := by
  unfold readFour
  rcases h with h | h
  · rw [h]
  · rw [h]
    cases readTwo s a <;> rfl

/-- What reading four bytes can answer. -/
theorem readFour_eq_some {s : State} {a : Word} {bytes : List Byte} (h : readFour s a = some bytes) :
    ∃ b0 b1 b2 b3, readTwo s a = some [b0, b1] ∧ readTwo s (a + 2) = some [b2, b3] ∧
      bytes = [b0, b1, b2, b3] := by
  unfold readFour at h
  split at h
  next lo hi h0 h1 =>
    obtain ⟨b0, b1, -, -, rfl⟩ := readTwo_eq_some h0
    obtain ⟨b2, b3, -, -, rfl⟩ := readTwo_eq_some h1
    exact ⟨b0, b1, b2, b3, h0, h1, (Option.some.inj h).symm⟩
  · cases h

/-- A fetch once `pc` is aligned, in either instruction set. -/
theorem fetch_aligned {s : State} (ha : pcAligned s = true) :
    fetch s = match readFour s s.pc with | some bytes => .ok bytes | none => .error .fetchUndefined :=
  if_neg (by simp [ha])

theorem fetch_eq_ok {s : State} {bytes : List Byte} (ha : pcAligned s = true)
    (h : readFour s s.pc = some bytes) : fetch s = .ok bytes := by
  rw [fetch_aligned ha, h]

theorem fetch_undefined {s : State} (ha : pcAligned s = true) (h : readFour s s.pc = none) :
    fetch s = .error .fetchUndefined := by
  rw [fetch_aligned ha, h]

/-- Where one of four bytes is not defined, they cannot be read. -/
theorem readFour_eq_none_of_byte {s : State} {a : Word}
    (h : s.readMem a = none ∨ s.readMem (a + 1) = none ∨ s.readMem (a + 2) = none ∨ s.readMem (a + 3) = none) :
    readFour s a = none := by
  rw [← add_two_add_one] at h
  rcases h with h | h | h | h
  · exact readFour_eq_none (.inl (readTwo_eq_none (.inl h)))
  · exact readFour_eq_none (.inl (readTwo_eq_none (.inr h)))
  · exact readFour_eq_none (.inr (readTwo_eq_none (.inl h)))
  · exact readFour_eq_none (.inr (readTwo_eq_none (.inr h)))

/-- A fetch reads `pc`, the instruction set and instruction memory, and nothing else. -/
theorem fetch_congr {s t : State} (hp : t.pc = s.pc) (hi : t.iset = s.iset) (hm : t.imem = s.imem) :
    fetch t = fetch s := by
  cases s
  cases t
  cases hp
  cases hi
  cases hm
  rfl

theorem fetch_misaligned {s : State} (ha : pcAligned s = false) : fetch s = .error .fetchMisaligned := by
  unfold fetch
  exact if_pos ha

/-- Four bytes written from an address are read back there, wherever in the 32-bit space it is. -/
theorem readByte_writeBytes_four (m : Memory) (a : Word) (b0 b1 b2 b3 : Byte) :
    readByte (writeBytes m a [b0, b1, b2, b3]) a.toNat = some b0 ∧
    readByte (writeBytes m a [b0, b1, b2, b3]) (a + 1).toNat = some b1 ∧
    readByte (writeBytes m a [b0, b1, b2, b3]) (a + 2).toNat = some b2 ∧
    readByte (writeBytes m a [b0, b1, b2, b3]) (a + 3).toNat = some b3 := by
  have two : a + 1 + 1 = a + 2 := by rw [BitVec.add_assoc]; rfl
  have ne : ∀ i j : Word, i ≠ j → (a + i).toNat ≠ (a + j).toNat := fun i j h he =>
    h (by simpa using BitVec.eq_of_toNat_eq he)
  have ne0 : ∀ j : Word, 0 ≠ j → a.toNat ≠ (a + j).toNat := fun j h => by simpa using ne 0 j h
  simp only [writeBytes]
  rw [two, add_two_add_one]
  refine ⟨?_, ?_, ?_, ?_⟩
  · rw [readByte_writeByte_of_ne _ _ (ne0 3 (by decide)), readByte_writeByte_of_ne _ _ (ne0 2 (by decide)),
      readByte_writeByte_of_ne _ _ (ne0 1 (by decide)), readByte_writeByte_self]
  · rw [readByte_writeByte_of_ne _ _ (ne 1 3 (by decide)), readByte_writeByte_of_ne _ _ (ne 1 2 (by decide)),
      readByte_writeByte_self]
  · rw [readByte_writeByte_of_ne _ _ (ne 2 3 (by decide)), readByte_writeByte_self]
  · rw [readByte_writeByte_self]

end Sys2Proof.Machine
end

