-- ==== Sys2Proof/Laws/PerInstr.lean ====
section
/-! SUPPORT. The statement made for each instruction: step 2 of the decode (30_encoding R58) keeps the encoding and
the argument, so an instruction and its argument row are the same word. -/

namespace Sys2Proof.Laws.ResolveKeepsWord

open Sys2Proof Sys2Proof.Machine

/-- The argument row an instruction resolves to has its encoding, its argument and its word (R58). -/
def Statement (i : Instr) : Prop :=
  i.resolve.form = i.form ∧ i.resolve.argument = i.argument ∧ Sys2Proof.encode i.resolve = Sys2Proof.encode i

theorem statement_holds (i : Instr) : Statement i := by
  have hf : i.resolve.form = i.form := form_ofArgument i.form i.argument
  have ha : i.resolve.argument = i.argument := argument_ofArgument i.form i.argument
  exact ⟨hf, ha, by unfold Sys2Proof.encode; rw [hf, ha]⟩

theorem mrsA1 (cond : Cond) (rd : GprNum) (arg : ArgCode) (hi : BitVec 2) (lo : BitVec 4) :
    Statement (.mrsA1 cond rd arg hi lo) := statement_holds _
theorem msrA1 (cond : Cond) (rn : GprNum) (arg : ArgCode) (sbo : BitVec 4) (sbz : BitVec 2) :
    Statement (.msrA1 cond rn arg sbo sbz) := statement_holds _
theorem mrsT1 (rd : GprNum) (arg : ArgCode) (a : BitVec 1) (b : BitVec 2) (c : BitVec 4) :
    Statement (.mrsT1 rd arg a b c) := statement_holds _
theorem msrT1 (rn : GprNum) (arg : ArgCode) (a : BitVec 1) (b : BitVec 2) (c : BitVec 4) :
    Statement (.msrT1 rn arg a b c) := statement_holds _
theorem argR8Usr (form : Form) : Statement (.argR8Usr form) := statement_holds _
theorem argR9Usr (form : Form) : Statement (.argR9Usr form) := statement_holds _
theorem argR10Usr (form : Form) : Statement (.argR10Usr form) := statement_holds _
theorem argR11Usr (form : Form) : Statement (.argR11Usr form) := statement_holds _
theorem argR12Usr (form : Form) : Statement (.argR12Usr form) := statement_holds _
theorem argSpUsr (form : Form) : Statement (.argSpUsr form) := statement_holds _
theorem argLrUsr (form : Form) : Statement (.argLrUsr form) := statement_holds _
theorem argR8Fiq (form : Form) : Statement (.argR8Fiq form) := statement_holds _
theorem argR9Fiq (form : Form) : Statement (.argR9Fiq form) := statement_holds _
theorem argR10Fiq (form : Form) : Statement (.argR10Fiq form) := statement_holds _
theorem argR11Fiq (form : Form) : Statement (.argR11Fiq form) := statement_holds _
theorem argR12Fiq (form : Form) : Statement (.argR12Fiq form) := statement_holds _
theorem argSpFiq (form : Form) : Statement (.argSpFiq form) := statement_holds _
theorem argLrFiq (form : Form) : Statement (.argLrFiq form) := statement_holds _
theorem argLrIrq (form : Form) : Statement (.argLrIrq form) := statement_holds _
theorem argSpIrq (form : Form) : Statement (.argSpIrq form) := statement_holds _
theorem argLrSvc (form : Form) : Statement (.argLrSvc form) := statement_holds _
theorem argSpSvc (form : Form) : Statement (.argSpSvc form) := statement_holds _
theorem argLrAbt (form : Form) : Statement (.argLrAbt form) := statement_holds _
theorem argSpAbt (form : Form) : Statement (.argSpAbt form) := statement_holds _
theorem argLrUnd (form : Form) : Statement (.argLrUnd form) := statement_holds _
theorem argSpUnd (form : Form) : Statement (.argSpUnd form) := statement_holds _
theorem argLrMon (form : Form) : Statement (.argLrMon form) := statement_holds _
theorem argSpMon (form : Form) : Statement (.argSpMon form) := statement_holds _
theorem argElrHyp (form : Form) : Statement (.argElrHyp form) := statement_holds _
theorem argSpHyp (form : Form) : Statement (.argSpHyp form) := statement_holds _
theorem argSpsrFiq (form : Form) : Statement (.argSpsrFiq form) := statement_holds _
theorem argSpsrIrq (form : Form) : Statement (.argSpsrIrq form) := statement_holds _
theorem argSpsrSvc (form : Form) : Statement (.argSpsrSvc form) := statement_holds _
theorem argSpsrAbt (form : Form) : Statement (.argSpsrAbt form) := statement_holds _
theorem argSpsrUnd (form : Form) : Statement (.argSpsrUnd form) := statement_holds _
theorem argSpsrMon (form : Form) : Statement (.argSpsrMon form) := statement_holds _
theorem argSpsrHyp (form : Form) : Statement (.argSpsrHyp form) := statement_holds _
theorem argConstrainedUnpredictable (arg : ArgCode) (form : Form) :
    Statement (.argConstrainedUnpredictable arg form) := statement_holds _

end Sys2Proof.Laws.ResolveKeepsWord
end

