-- ==== Sys2Proof/Laws/Run.lean ====
section
/-! SUPPORT. A run of the core, one step at a time. -/

namespace Sys2Proof.Machine

theorem run_zero (s : State) : Host.Core.run Sys2Proof.core 0 s = .next s := rfl

/-- A run of one more step that reaches a next state: a step, and the rest of the run. -/
theorem run_succ_eq_next_iff {n : Nat} {s t : State} :
    Host.Core.run Sys2Proof.core (n + 1) s = .next t ↔
      ∃ u : State, step s = .next u ∧ Host.Core.run Sys2Proof.core n u = .next t := by
  have e : Sys2Proof.core.step s = step s := rfl
  simp only [Host.Core.run]
  rw [e]
  cases h : step s with
  | next u =>
    constructor
    · exact fun ht => ⟨u, rfl, ht⟩
    · rintro ⟨v, hv, ht⟩
      cases hv
      exact ht
  | fault w =>
    constructor
    · exact fun ht => nomatch ht
    · rintro ⟨v, hv, -⟩
      cases hv
  | refused w =>
    constructor
    · exact fun ht => nomatch ht
    · rintro ⟨v, hv, -⟩
      cases hv

/-- What no step changes (R83, R93, R96): a step that answers a next state moves `pc` by four, and changes
nothing but the bank and the count of free values beside it. -/
theorem step_next_frame {s t : State} (h : step s = .next t) :
    t.pc = s.pc + 4 ∧ t.mode = s.mode ∧ t.secure = s.secure ∧ t.flagN = s.flagN ∧ t.flagZ = s.flagZ ∧
    t.flagC = s.flagC ∧ t.flagV = s.flagV ∧ t.iset = s.iset ∧ t.imem = s.imem ∧ t.params = s.params := by
  obtain ⟨bytes, i, -, -, he⟩ := step_next h
  rw [exec_eq_bankedTransfer] at he
  exact bankedTransfer_next_frame he

end Sys2Proof.Machine
end

