-- ==== Sys2Proof/Tests/Slice0.lean ====
section
/-! SUPPORT. Tests, each from a table or a vector of spec/, and for every obligation with hypotheses a witness that
meets them. -/

namespace Sys2Proof.Tests

open Sys2Proof Sys2Proof.Machine

/-! ### Well-formedness: one ill-formed term for each check -/

theorem test_wellFormed_accepts : (Instr.mrsA1 .al 0 ⟨0, 0b10011⟩ 0 0).wellFormed = true := by decide
theorem test_wellFormed_refuses_should_be_zero : (Instr.mrsA1 .al 0 ⟨0, 0b10011⟩ 0b10 0).wellFormed = false := by decide
theorem test_wellFormed_refuses_should_be_one : (Instr.msrA1 .al 0 ⟨0, 0b11110⟩ 0 0).wellFormed = false := by decide
theorem test_wellFormed_refuses_t32_should_be_zero : (Instr.msrT1 0 ⟨0, 0b11110⟩ 0 0b10 0).wellFormed = false := by decide
theorem test_wellFormed_refuses_register_15 : (Instr.argSpSvc (.msrT1 15 0 0 0)).wellFormed = false := by decide
theorem test_wellFormed_refuses_word_without_register : (Instr.mrsA1 .al 0 ⟨0, 0b00111⟩ 0 0).wellFormed = false := by decide
theorem test_wellFormed_refuses_register_as_unpredictable :
    (Instr.argConstrainedUnpredictable ⟨1, 0b11110⟩ tableForm).wellFormed = false := by decide

/-! ### Decoding: words of 95_test_vectors 2.2 and 2.3, and of opcode_table.json, bit by bit -/

/-- `MRS R10, ELR_hyp`: cond 1110, 00010, R 0, 00, M1 1110, Rd 1010, 00, 1, M 1, 0000, 0000. -/
theorem test_decode_mrsA1 : decodeTableWord 32 0b1110_00010_0_00_1110_1010_00_1_1_0000_0000 =
    some (.mrsA1 .al 10 ⟨0, 0b11110⟩ 0 0) := by decide
/-- `MSRGE SPSR_hyp, R4`: cond 1010, 00010, R 1, 10, M1 1110, 1111, 00, 1, M 1, 0000, Rn 0100. -/
theorem test_decode_msrA1 : decodeTableWord 32 0b1010_00010_1_10_1110_1111_00_1_1_0000_0100 =
    some (.msrA1 .ge 4 ⟨1, 0b11110⟩ 0b1111 0) := by decide
/-- `MRS R12, SPSR_fiq`: 11110011111, R 1, M1 1110; 10, 0, 0, Rd 1100, 00, 1, M 0, 0000. -/
theorem test_decode_mrsT1 : decodeTableWord 32 0b11110011111_1_1110_10_0_0_1100_00_1_0_0000 =
    some (.mrsT1 12 ⟨1, 0b01110⟩ 0 0 0) := by decide
/-- `MSR LR_und, R6`: 11110011100, R 0, Rn 0110; 10, 0, 0, M1 0110, 00, 1, M 1, 0000. -/
theorem test_decode_msrT1 : decodeTableWord 32 0b11110011100_0_0110_10_0_0_0110_00_1_1_0000 =
    some (.msrT1 6 ⟨0, 0b10110⟩ 0 0 0) := by decide
/-- Should-be bits are read, not dropped (2.3: `0xE12EF700`, `0xF3EE 0xA030`, `0xF3EE 0x80B0`). -/
theorem test_decode_should_be_bits :
    decodeTableWord 32 0xE12EF700 = some (.msrA1 .al 0 ⟨0, 0b11110⟩ 0b1111 0b01) ∧
    decodeTableWord 32 0xF3EEA030 = some (.mrsT1 0 ⟨0, 0b11110⟩ 1 0 0) ∧
    decodeTableWord 32 0xF3EE80B0 = some (.mrsT1 0 ⟨0, 0b11110⟩ 0 0b10 0) := by decide
/-- The out-of-scope words of 2.3. -/
theorem test_decode_out_of_scope :
    [0xF1030300, 0xE10F0000, 0xE129F000, 0xE1030310, 0xE1A00000, 0xF3EF8000, 0xF3808E00, 0xF3EE9030].map
      (decodeTableWord 32) = List.replicate 8 none := by decide
/-- The words of the argument rows of opcode_table.json, each decoded and its argument looked up (R58). -/
def row (w : Nat) : Option Instr := (decodeTableWord 32 w).map Instr.resolve

theorem test_decode_argR8Usr : decodeTableWord 8 0x00 = some (.argR8Usr tableForm) ∧
    row 0xE1000200 = some (.argR8Usr (.mrsA1 .al 0 0 0)) ∧ row 0xE120F200 = some (.argR8Usr (.msrA1 .al 0 15 0)) ∧
    row 0xF3E08020 = some (.argR8Usr (.mrsT1 0 0 0 0)) ∧ row 0xF3808020 = some (.argR8Usr (.msrT1 0 0 0 0)) := by decide
theorem test_decode_argR9Usr : decodeTableWord 8 0x01 = some (.argR9Usr tableForm) ∧
    row 0xE1010200 = some (.argR9Usr (.mrsA1 .al 0 0 0)) ∧ row 0xE121F200 = some (.argR9Usr (.msrA1 .al 0 15 0)) ∧
    row 0xF3E18020 = some (.argR9Usr (.mrsT1 0 0 0 0)) ∧ row 0xF3808120 = some (.argR9Usr (.msrT1 0 0 0 0)) := by decide
theorem test_decode_argR10Usr : decodeTableWord 8 0x02 = some (.argR10Usr tableForm) ∧
    row 0xE1020200 = some (.argR10Usr (.mrsA1 .al 0 0 0)) ∧ row 0xE122F200 = some (.argR10Usr (.msrA1 .al 0 15 0)) ∧
    row 0xF3E28020 = some (.argR10Usr (.mrsT1 0 0 0 0)) ∧ row 0xF3808220 = some (.argR10Usr (.msrT1 0 0 0 0)) := by decide
theorem test_decode_argR11Usr : decodeTableWord 8 0x03 = some (.argR11Usr tableForm) ∧
    row 0xE1030200 = some (.argR11Usr (.mrsA1 .al 0 0 0)) ∧ row 0xE123F200 = some (.argR11Usr (.msrA1 .al 0 15 0)) ∧
    row 0xF3E38020 = some (.argR11Usr (.mrsT1 0 0 0 0)) ∧ row 0xF3808320 = some (.argR11Usr (.msrT1 0 0 0 0)) := by decide
theorem test_decode_argR12Usr : decodeTableWord 8 0x04 = some (.argR12Usr tableForm) ∧
    row 0xE1040200 = some (.argR12Usr (.mrsA1 .al 0 0 0)) ∧ row 0xE124F200 = some (.argR12Usr (.msrA1 .al 0 15 0)) ∧
    row 0xF3E48020 = some (.argR12Usr (.mrsT1 0 0 0 0)) ∧ row 0xF3808420 = some (.argR12Usr (.msrT1 0 0 0 0)) := by decide
theorem test_decode_argSpUsr : decodeTableWord 8 0x05 = some (.argSpUsr tableForm) ∧
    row 0xE1050200 = some (.argSpUsr (.mrsA1 .al 0 0 0)) ∧ row 0xE125F200 = some (.argSpUsr (.msrA1 .al 0 15 0)) ∧
    row 0xF3E58020 = some (.argSpUsr (.mrsT1 0 0 0 0)) ∧ row 0xF3808520 = some (.argSpUsr (.msrT1 0 0 0 0)) := by decide
theorem test_decode_argLrUsr : decodeTableWord 8 0x06 = some (.argLrUsr tableForm) ∧
    row 0xE1060200 = some (.argLrUsr (.mrsA1 .al 0 0 0)) ∧ row 0xE126F200 = some (.argLrUsr (.msrA1 .al 0 15 0)) ∧
    row 0xF3E68020 = some (.argLrUsr (.mrsT1 0 0 0 0)) ∧ row 0xF3808620 = some (.argLrUsr (.msrT1 0 0 0 0)) := by decide
theorem test_decode_argR8Fiq : decodeTableWord 8 0x08 = some (.argR8Fiq tableForm) ∧
    row 0xE1080200 = some (.argR8Fiq (.mrsA1 .al 0 0 0)) ∧ row 0xE128F200 = some (.argR8Fiq (.msrA1 .al 0 15 0)) ∧
    row 0xF3E88020 = some (.argR8Fiq (.mrsT1 0 0 0 0)) ∧ row 0xF3808820 = some (.argR8Fiq (.msrT1 0 0 0 0)) := by decide
theorem test_decode_argR9Fiq : decodeTableWord 8 0x09 = some (.argR9Fiq tableForm) ∧
    row 0xE1090200 = some (.argR9Fiq (.mrsA1 .al 0 0 0)) ∧ row 0xE129F200 = some (.argR9Fiq (.msrA1 .al 0 15 0)) ∧
    row 0xF3E98020 = some (.argR9Fiq (.mrsT1 0 0 0 0)) ∧ row 0xF3808920 = some (.argR9Fiq (.msrT1 0 0 0 0)) := by decide
theorem test_decode_argR10Fiq : decodeTableWord 8 0x0A = some (.argR10Fiq tableForm) ∧
    row 0xE10A0200 = some (.argR10Fiq (.mrsA1 .al 0 0 0)) ∧ row 0xE12AF200 = some (.argR10Fiq (.msrA1 .al 0 15 0)) ∧
    row 0xF3EA8020 = some (.argR10Fiq (.mrsT1 0 0 0 0)) ∧ row 0xF3808A20 = some (.argR10Fiq (.msrT1 0 0 0 0)) := by decide
theorem test_decode_argR11Fiq : decodeTableWord 8 0x0B = some (.argR11Fiq tableForm) ∧
    row 0xE10B0200 = some (.argR11Fiq (.mrsA1 .al 0 0 0)) ∧ row 0xE12BF200 = some (.argR11Fiq (.msrA1 .al 0 15 0)) ∧
    row 0xF3EB8020 = some (.argR11Fiq (.mrsT1 0 0 0 0)) ∧ row 0xF3808B20 = some (.argR11Fiq (.msrT1 0 0 0 0)) := by decide
theorem test_decode_argR12Fiq : decodeTableWord 8 0x0C = some (.argR12Fiq tableForm) ∧
    row 0xE10C0200 = some (.argR12Fiq (.mrsA1 .al 0 0 0)) ∧ row 0xE12CF200 = some (.argR12Fiq (.msrA1 .al 0 15 0)) ∧
    row 0xF3EC8020 = some (.argR12Fiq (.mrsT1 0 0 0 0)) ∧ row 0xF3808C20 = some (.argR12Fiq (.msrT1 0 0 0 0)) := by decide
theorem test_decode_argSpFiq : decodeTableWord 8 0x0D = some (.argSpFiq tableForm) ∧
    row 0xE10D0200 = some (.argSpFiq (.mrsA1 .al 0 0 0)) ∧ row 0xE12DF200 = some (.argSpFiq (.msrA1 .al 0 15 0)) ∧
    row 0xF3ED8020 = some (.argSpFiq (.mrsT1 0 0 0 0)) ∧ row 0xF3808D20 = some (.argSpFiq (.msrT1 0 0 0 0)) := by decide
theorem test_decode_argLrFiq : decodeTableWord 8 0x0E = some (.argLrFiq tableForm) ∧
    row 0xE10E0200 = some (.argLrFiq (.mrsA1 .al 0 0 0)) ∧ row 0xE12EF200 = some (.argLrFiq (.msrA1 .al 0 15 0)) ∧
    row 0xF3EE8020 = some (.argLrFiq (.mrsT1 0 0 0 0)) ∧ row 0xF3808E20 = some (.argLrFiq (.msrT1 0 0 0 0)) := by decide
theorem test_decode_argLrIrq : decodeTableWord 8 0x10 = some (.argLrIrq tableForm) ∧
    row 0xE1000300 = some (.argLrIrq (.mrsA1 .al 0 0 0)) ∧ row 0xE120F300 = some (.argLrIrq (.msrA1 .al 0 15 0)) ∧
    row 0xF3E08030 = some (.argLrIrq (.mrsT1 0 0 0 0)) ∧ row 0xF3808030 = some (.argLrIrq (.msrT1 0 0 0 0)) := by decide
theorem test_decode_argSpIrq : decodeTableWord 8 0x11 = some (.argSpIrq tableForm) ∧
    row 0xE1010300 = some (.argSpIrq (.mrsA1 .al 0 0 0)) ∧ row 0xE121F300 = some (.argSpIrq (.msrA1 .al 0 15 0)) ∧
    row 0xF3E18030 = some (.argSpIrq (.mrsT1 0 0 0 0)) ∧ row 0xF3808130 = some (.argSpIrq (.msrT1 0 0 0 0)) := by decide
theorem test_decode_argLrSvc : decodeTableWord 8 0x12 = some (.argLrSvc tableForm) ∧
    row 0xE1020300 = some (.argLrSvc (.mrsA1 .al 0 0 0)) ∧ row 0xE122F300 = some (.argLrSvc (.msrA1 .al 0 15 0)) ∧
    row 0xF3E28030 = some (.argLrSvc (.mrsT1 0 0 0 0)) ∧ row 0xF3808230 = some (.argLrSvc (.msrT1 0 0 0 0)) := by decide
theorem test_decode_argSpSvc : decodeTableWord 8 0x13 = some (.argSpSvc tableForm) ∧
    row 0xE1030300 = some (.argSpSvc (.mrsA1 .al 0 0 0)) ∧ row 0xE123F300 = some (.argSpSvc (.msrA1 .al 0 15 0)) ∧
    row 0xF3E38030 = some (.argSpSvc (.mrsT1 0 0 0 0)) ∧ row 0xF3808330 = some (.argSpSvc (.msrT1 0 0 0 0)) := by decide
theorem test_decode_argLrAbt : decodeTableWord 8 0x14 = some (.argLrAbt tableForm) ∧
    row 0xE1040300 = some (.argLrAbt (.mrsA1 .al 0 0 0)) ∧ row 0xE124F300 = some (.argLrAbt (.msrA1 .al 0 15 0)) ∧
    row 0xF3E48030 = some (.argLrAbt (.mrsT1 0 0 0 0)) ∧ row 0xF3808430 = some (.argLrAbt (.msrT1 0 0 0 0)) := by decide
theorem test_decode_argSpAbt : decodeTableWord 8 0x15 = some (.argSpAbt tableForm) ∧
    row 0xE1050300 = some (.argSpAbt (.mrsA1 .al 0 0 0)) ∧ row 0xE125F300 = some (.argSpAbt (.msrA1 .al 0 15 0)) ∧
    row 0xF3E58030 = some (.argSpAbt (.mrsT1 0 0 0 0)) ∧ row 0xF3808530 = some (.argSpAbt (.msrT1 0 0 0 0)) := by decide
theorem test_decode_argLrUnd : decodeTableWord 8 0x16 = some (.argLrUnd tableForm) ∧
    row 0xE1060300 = some (.argLrUnd (.mrsA1 .al 0 0 0)) ∧ row 0xE126F300 = some (.argLrUnd (.msrA1 .al 0 15 0)) ∧
    row 0xF3E68030 = some (.argLrUnd (.mrsT1 0 0 0 0)) ∧ row 0xF3808630 = some (.argLrUnd (.msrT1 0 0 0 0)) := by decide
theorem test_decode_argSpUnd : decodeTableWord 8 0x17 = some (.argSpUnd tableForm) ∧
    row 0xE1070300 = some (.argSpUnd (.mrsA1 .al 0 0 0)) ∧ row 0xE127F300 = some (.argSpUnd (.msrA1 .al 0 15 0)) ∧
    row 0xF3E78030 = some (.argSpUnd (.mrsT1 0 0 0 0)) ∧ row 0xF3808730 = some (.argSpUnd (.msrT1 0 0 0 0)) := by decide
theorem test_decode_argLrMon : decodeTableWord 8 0x1C = some (.argLrMon tableForm) ∧
    row 0xE10C0300 = some (.argLrMon (.mrsA1 .al 0 0 0)) ∧ row 0xE12CF300 = some (.argLrMon (.msrA1 .al 0 15 0)) ∧
    row 0xF3EC8030 = some (.argLrMon (.mrsT1 0 0 0 0)) ∧ row 0xF3808C30 = some (.argLrMon (.msrT1 0 0 0 0)) := by decide
theorem test_decode_argSpMon : decodeTableWord 8 0x1D = some (.argSpMon tableForm) ∧
    row 0xE10D0300 = some (.argSpMon (.mrsA1 .al 0 0 0)) ∧ row 0xE12DF300 = some (.argSpMon (.msrA1 .al 0 15 0)) ∧
    row 0xF3ED8030 = some (.argSpMon (.mrsT1 0 0 0 0)) ∧ row 0xF3808D30 = some (.argSpMon (.msrT1 0 0 0 0)) := by decide
theorem test_decode_argElrHyp : decodeTableWord 8 0x1E = some (.argElrHyp tableForm) ∧
    row 0xE10E0300 = some (.argElrHyp (.mrsA1 .al 0 0 0)) ∧ row 0xE12EF300 = some (.argElrHyp (.msrA1 .al 0 15 0)) ∧
    row 0xF3EE8030 = some (.argElrHyp (.mrsT1 0 0 0 0)) ∧ row 0xF3808E30 = some (.argElrHyp (.msrT1 0 0 0 0)) := by decide
theorem test_decode_argSpHyp : decodeTableWord 8 0x1F = some (.argSpHyp tableForm) ∧
    row 0xE10F0300 = some (.argSpHyp (.mrsA1 .al 0 0 0)) ∧ row 0xE12FF300 = some (.argSpHyp (.msrA1 .al 0 15 0)) ∧
    row 0xF3EF8030 = some (.argSpHyp (.mrsT1 0 0 0 0)) ∧ row 0xF3808F30 = some (.argSpHyp (.msrT1 0 0 0 0)) := by decide
theorem test_decode_argSpsrFiq : decodeTableWord 8 0x2E = some (.argSpsrFiq tableForm) ∧
    row 0xE14E0200 = some (.argSpsrFiq (.mrsA1 .al 0 0 0)) ∧ row 0xE16EF200 = some (.argSpsrFiq (.msrA1 .al 0 15 0)) ∧
    row 0xF3FE8020 = some (.argSpsrFiq (.mrsT1 0 0 0 0)) ∧ row 0xF3908E20 = some (.argSpsrFiq (.msrT1 0 0 0 0)) := by decide
theorem test_decode_argSpsrIrq : decodeTableWord 8 0x30 = some (.argSpsrIrq tableForm) ∧
    row 0xE1400300 = some (.argSpsrIrq (.mrsA1 .al 0 0 0)) ∧ row 0xE160F300 = some (.argSpsrIrq (.msrA1 .al 0 15 0)) ∧
    row 0xF3F08030 = some (.argSpsrIrq (.mrsT1 0 0 0 0)) ∧ row 0xF3908030 = some (.argSpsrIrq (.msrT1 0 0 0 0)) := by decide
theorem test_decode_argSpsrSvc : decodeTableWord 8 0x32 = some (.argSpsrSvc tableForm) ∧
    row 0xE1420300 = some (.argSpsrSvc (.mrsA1 .al 0 0 0)) ∧ row 0xE162F300 = some (.argSpsrSvc (.msrA1 .al 0 15 0)) ∧
    row 0xF3F28030 = some (.argSpsrSvc (.mrsT1 0 0 0 0)) ∧ row 0xF3908230 = some (.argSpsrSvc (.msrT1 0 0 0 0)) := by decide
theorem test_decode_argSpsrAbt : decodeTableWord 8 0x34 = some (.argSpsrAbt tableForm) ∧
    row 0xE1440300 = some (.argSpsrAbt (.mrsA1 .al 0 0 0)) ∧ row 0xE164F300 = some (.argSpsrAbt (.msrA1 .al 0 15 0)) ∧
    row 0xF3F48030 = some (.argSpsrAbt (.mrsT1 0 0 0 0)) ∧ row 0xF3908430 = some (.argSpsrAbt (.msrT1 0 0 0 0)) := by decide
theorem test_decode_argSpsrUnd : decodeTableWord 8 0x36 = some (.argSpsrUnd tableForm) ∧
    row 0xE1460300 = some (.argSpsrUnd (.mrsA1 .al 0 0 0)) ∧ row 0xE166F300 = some (.argSpsrUnd (.msrA1 .al 0 15 0)) ∧
    row 0xF3F68030 = some (.argSpsrUnd (.mrsT1 0 0 0 0)) ∧ row 0xF3908630 = some (.argSpsrUnd (.msrT1 0 0 0 0)) := by decide
theorem test_decode_argSpsrMon : decodeTableWord 8 0x3C = some (.argSpsrMon tableForm) ∧
    row 0xE14C0300 = some (.argSpsrMon (.mrsA1 .al 0 0 0)) ∧ row 0xE16CF300 = some (.argSpsrMon (.msrA1 .al 0 15 0)) ∧
    row 0xF3FC8030 = some (.argSpsrMon (.mrsT1 0 0 0 0)) ∧ row 0xF3908C30 = some (.argSpsrMon (.msrT1 0 0 0 0)) := by decide
theorem test_decode_argSpsrHyp : decodeTableWord 8 0x3E = some (.argSpsrHyp tableForm) ∧
    row 0xE14E0300 = some (.argSpsrHyp (.mrsA1 .al 0 0 0)) ∧ row 0xE16EF300 = some (.argSpsrHyp (.msrA1 .al 0 15 0)) ∧
    row 0xF3FE8030 = some (.argSpsrHyp (.mrsT1 0 0 0 0)) ∧ row 0xF3908E30 = some (.argSpsrHyp (.msrT1 0 0 0 0)) := by decide
/-- The 31 rows marked CONSTRAINED UNPREDICTABLE (R54). -/
theorem test_decode_argConstrainedUnpredictable :
    ([7, 15, 24, 25, 26, 27, 32, 33, 34, 35, 36, 37, 38, 39, 40, 41] ++ [42, 43, 44, 45, 47, 49, 51, 53, 55, 56, 57, 58, 59, 61, 63]).all (fun n =>
      decodeTableWord 8 n == some (Instr.argConstrainedUnpredictable (argOfTableBits n) tableForm)) = true ∧
    row 0xE1070200 = some (.argConstrainedUnpredictable (argOfTableBits 7) (.mrsA1 .al 0 0 0)) ∧
    row 0xF3908F30 = some (.argConstrainedUnpredictable (argOfTableBits 63) (.msrT1 0 0 0 0)) := by decide

/-- Assembly tokens of 2.2: `MRSLT R0, SPSR_mon` and `MSR SP_svc, SP`; `R13_svc` is another name of `SP_svc` (R56). -/
theorem test_assembly :
    (decodeTableWord 32 0xB14C0300).bind assemblyTokens = some ["MRS", "LT", "R0", "SPSR_mon"] ∧
    (decodeTableWord 32 0xF38D8330).bind assemblyTokens = some ["MSR", "", "SP_svc", "SP"] ∧
    argOfName "R13_svc" = some ⟨0, 0b10011⟩ := by decide

/-! ### Behaviour: vectors of 95_test_vectors 2.4, 2.6 and 2.7 -/

/-- A small launch state: `pc` 0x1000, flags clear, parameters T/T/T, the cells not listed zero. -/
def launch (m : Mode) (secure : Bool) (cells : List (Reg × Word)) : State :=
  cells.foldl (fun s c => s.setCell c.1 c.2)
    { bank := Vector.replicate 41 0, pc := 0x1000, mode := m, secure := secure, flagN := false, flagZ := false,
      flagC := false, flagV := false, iset := .a32, imem := [], params := ⟨true, true, true, false, 0xFFFFFFFF, false⟩,
      draws := 0 }

/-- The parameters T/T/F: EL3 in AArch64. -/
def a64El3 : Params := ⟨true, true, false, false, 0xFFFFFFFF, false⟩

/-- One step on a word of the vectors, loaded at `pc`. -/
def runWord (w : Nat) (s : State) : Result := step (s.withFetchWord 32 w)

/-- A cell and `pc` after a step that answers a next state. -/
def cellAndPc (o : Result) (q : Reg) : Option (Word × Word) :=
  match o with
  | .next t => some (t.cell q, t.pc)
  | .fault _ => none
  | .refused _ => none

/-- The reason a step ends as Unpredictable. -/
def reasonOf : Result → Option Reason
  | .fault (.unpredictable why) => some why
  | _ => none

/-- The state a step traps in. -/
def trapOf : Result → Option State
  | .fault (.trapToEl3 t) => some t
  | _ => none

/-- M1: `MRS R0, SP_svc` from Hyp mode. -/
theorem test_M1 : cellAndPc (runWord 0xE1030300 (launch .hyp false [(.banked .sp_svc, 0x8000FFF0), (.low 0, 0x00000000)])) (.low 0) =
    some (0x8000FFF0, 0x1004) := by decide
/-- M2: `MRS SP, SP_usr` from Supervisor mode. -/
theorem test_M2 : cellAndPc (runWord 0xE105D200 (launch .supervisor false [(.banked .sp_usr, 0x7FFF0000), (.banked .sp_svc, 0x8000FFF0)])) (.banked .sp_svc) =
    some (0x7FFF0000, 0x1004) := by decide
/-- M3: `MRS LR, LR_svc` from IRQ mode. -/
theorem test_M3 : cellAndPc (runWord 0xE102E300 (launch .irq false [(.banked .lr_svc, 0x00010234), (.banked .lr_irq, 0x00000018), (.banked .lr_usr, 0xCCCCCCCC)])) (.banked .lr_irq) =
    some (0x00010234, 0x1004) := by decide
/-- M4: `MRS LR, LR_svc` from Hyp mode. -/
theorem test_M4 : cellAndPc (runWord 0xE102E300 (launch .hyp false [(.banked .lr_svc, 0x00010234), (.banked .lr_usr, 0xCCCCCCCC)])) (.banked .lr_usr) =
    some (0x00010234, 0x1004) := by decide
/-- M5: `MRS LR, LR_irq` from System mode. -/
theorem test_M5 : cellAndPc (runWord 0xE100E300 (launch .system false [(.banked .lr_irq, 0x00000018), (.banked .lr_usr, 0xCCCCCCCC)])) (.banked .lr_usr) =
    some (0x00000018, 0x1004) := by decide
/-- M6: `MRS R8, R8_usr` from FIQ mode. -/
theorem test_M6 : cellAndPc (runWord 0xE1008200 (launch .fiq false [(.banked .r8_usr, 0xAAAA0008), (.banked .r8_fiq, 0xFFFF0008)])) (.banked .r8_fiq) =
    some (0xAAAA0008, 0x1004) := by decide
/-- M8: `MRS R12, R12_fiq` from Abort mode. -/
theorem test_M8 : cellAndPc (runWord 0xF3EC8C20 (launch .abort false [(.banked .r12_fiq, 0x000000D2), (.banked .r12_usr, 0xAAAA000C)])) (.banked .r12_usr) =
    some (0x000000D2, 0x1004) := by decide
/-- M9: `MRS R3, ELR_hyp` from Hyp mode. -/
theorem test_M9 : cellAndPc (runWord 0xF3EE8330 (launch .hyp false [(.banked .elr_hyp, 0x00008004), (.low 3, 0x00000000)])) (.low 3) =
    some (0x00008004, 0x1004) := by decide
/-- M10: `MRS R1, SPSR_und` from System mode. -/
theorem test_M10 : cellAndPc (runWord 0xE1461300 (launch .system false [(.banked .spsr_und, 0xF00001DB), (.low 1, 0x00000000)])) (.low 1) =
    some (0xF00001DB, 0x1004) := by decide
/-- M11: `MRS R2, SPSR_hyp` from Monitor mode. -/
theorem test_M11 : cellAndPc (runWord 0xE14E2300 (launch .monitor true [(.banked .spsr_hyp, 0x000001DA), (.low 2, 0x00000000)])) (.low 2) =
    some (0x000001DA, 0x1004) := by decide
/-- M12: `MRS R0, SPSR_mon` from Undefined mode. -/
theorem test_M12 : cellAndPc (runWord 0xE14C0300 (launch .undefined true [(.banked .spsr_mon, 0x000001D6), (.low 0, 0x00000000)])) (.low 0) =
    some (0x000001D6, 0x1004) := by decide
/-- M15: `MRS SP, SP_irq` from Hyp mode. -/
theorem test_M15 : cellAndPc (runWord 0xF3E18D30 (launch .hyp false [(.banked .sp_irq, 0x0000F000), (.banked .sp_hyp, 0x05050505)])) (.banked .sp_hyp) =
    some (0x0000F000, 0x1004) := by decide
/-- M16: `MRS R0, SP_und` from Supervisor mode. -/
theorem test_M16 : cellAndPc (runWord 0xE1070300 (launch .supervisor false [(.banked .sp_und, 0xFFFFFFFF), (.low 0, 0x00000000)])) (.low 0) =
    some (0xFFFFFFFF, 0x1004) := by decide
/-- W1: `MSR ELR_hyp, R0` from Hyp mode. -/
theorem test_W1 : cellAndPc (runWord 0xE12EF300 (launch .hyp false [(.low 0, 0x00008004), (.banked .elr_hyp, 0x00000000)])) (.banked .elr_hyp) =
    some (0x00008004, 0x1004) := by decide
/-- W2: `MSR SP_svc, SP` from Hyp mode. -/
theorem test_W2 : cellAndPc (runWord 0xE123F30D (launch .hyp false [(.banked .sp_hyp, 0x05050505), (.banked .sp_svc, 0x01010101)])) (.banked .sp_svc) =
    some (0x05050505, 0x1004) := by decide
/-- W3: `MSR LR_svc, LR` from Hyp mode. -/
theorem test_W3 : cellAndPc (runWord 0xE122F30E (launch .hyp false [(.banked .lr_usr, 0x00020468), (.banked .lr_svc, 0x02020202)])) (.banked .lr_svc) =
    some (0x00020468, 0x1004) := by decide
/-- W4: `MSR R8_usr, R8` from FIQ mode. -/
theorem test_W4 : cellAndPc (runWord 0xE120F208 (launch .fiq false [(.banked .r8_fiq, 0xFFFF0008), (.banked .r8_usr, 0xAAAA0008)])) (.banked .r8_usr) =
    some (0xFFFF0008, 0x1004) := by decide
/-- W6: `MSR R12_fiq, R12` from IRQ mode. -/
theorem test_W6 : cellAndPc (runWord 0xF38C8C20 (launch .irq false [(.banked .r12_usr, 0xAAAA000C), (.banked .r12_fiq, 0x000000D2)])) (.banked .r12_fiq) =
    some (0xAAAA000C, 0x1004) := by decide
/-- W7: `MSR LR_usr, R0` from Supervisor mode. -/
theorem test_W7 : cellAndPc (runWord 0xE126F200 (launch .supervisor false [(.low 0, 0x00001234), (.banked .lr_usr, 0xCCCCCCCC)])) (.banked .lr_usr) =
    some (0x00001234, 0x1004) := by decide
/-- W8: `MSR SP_usr, LR` from Supervisor mode. -/
theorem test_W8 : cellAndPc (runWord 0xE125F20E (launch .supervisor false [(.banked .lr_svc, 0x00010234), (.banked .sp_usr, 0x7FFF0000)])) (.banked .sp_usr) =
    some (0x00010234, 0x1004) := by decide
/-- W9: `MSR SPSR_abt, R4` from System mode. -/
theorem test_W9 : cellAndPc (runWord 0xE164F304 (launch .system false [(.low 4, 0x200001D7), (.banked .spsr_abt, 0x00000000)])) (.banked .spsr_abt) =
    some (0x200001D7, 0x1004) := by decide
/-- W10: `MSR SP_hyp, R5` from Monitor mode. -/
theorem test_W10 : cellAndPc (runWord 0xE12FF305 (launch .monitor true [(.low 5, 0x4000E000), (.banked .sp_hyp, 0x00000000)])) (.banked .sp_hyp) =
    some (0x4000E000, 0x1004) := by decide
/-- W11: `MSR LR_mon, R6` from Abort mode. -/
theorem test_W11 : cellAndPc (runWord 0xF3868C30 (launch .abort true [(.low 6, 0x0000A100), (.banked .lr_mon, 0x00000000)])) (.banked .lr_mon) =
    some (0x0000A100, 0x1004) := by decide
/-- M1 with `pc` = 0xFFFFFFFC: `pc` wraps (R23). -/
theorem test_pc_wraps : cellAndPc (runWord 0xE1030300 { launch .hyp false [(.banked .sp_svc, 0x8000FFF0)] with pc := 0xFFFFFFFC }) (.low 0) =
    some (0x8000FFF0, 0) := by decide
/-- W15 with a mask: the kept bits hold what was written (R94). -/
theorem test_W15_masked :
    (cellAndPc (runWord 0xE16EF200 { launch .supervisor false [(.low 0, 0xFFFFFFFF)] with params := ⟨true, true, true, false, 0xF8FF03DF, false⟩ })
      (.banked .spsr_fiq)).map (fun c => c.1 &&& 0xF8FF03DF) = some 0xF8FF03DF := by
  show some (legalSpsr 0xF8FF03DF (Config.spsrDraw 0) 0xFFFFFFFF &&& 0xF8FF03DF) = some 0xF8FF03DF
  refine congrArg some ?_
  apply BitVec.eq_of_getLsbD_eq
  intro k hk
  simp only [legalSpsr, show ((0xF8FF03DF : Word) = BitVec.allOnes 32) = False by decide, if_false, BitVec.getLsbD_and,
    BitVec.getLsbD_or, BitVec.getLsbD_not]
  interval_cases k <;> simp
/-- W16: a failed condition advances only. -/
theorem test_W16 : cellAndPc (runWord 0x1123F300 { launch .supervisor false [(.low 0, 0x12345678), (.banked .sp_svc, 0x8000FFF0)] with flagZ := true })
    (.banked .sp_svc) = some (0x8000FFF0, 0x1004) := by decide
/-- M13, W12: the trap, with the registers and `pc` as they were. -/
theorem test_M13_W12 :
    (trapOf (runWord 0xE14C0300 { launch .undefined true [(.banked .spsr_mon, 0x1D6)] with params := a64El3 })).map
      (fun t => (t.cell (.low 0), t.pc)) = some (0, 0x1000) ∧
    (trapOf (runWord 0xF3868C30 { launch .abort true [(.low 6, 0xA100)] with params := a64El3 })).map
      (fun t => (t.cell (.banked .lr_mon), t.pc)) = some (0, 0x1000) := by decide
/-- M14, W13, W14, W17: the reasons. -/
theorem test_M14_W13_W14_W17 :
    reasonOf (runWord 0xE14C0300 (launch .undefined false [])) = some .notAccessibleHere ∧
    reasonOf (runWord 0xF3868C30 { launch .abort true [] with params := ⟨true, false, false, false, 0xFFFFFFFF, false⟩ }) = some .notImplemented ∧
    reasonOf (runWord 0xE16EF300 (launch .hyp false [])) = some .currentModeRegister ∧
    reasonOf (runWord 0x1123F300 (launch .supervisor false [])) = some .currentModeRegister := by decide
/-- A1, A46, A47, A48, A50, A41: the other reasons, in the order of the checks (R75). -/
theorem test_check_order :
    reasonOf (runWord 0xE1030300 (launch .user false [])) = some .userMode ∧
    reasonOf (runWord 0xE1070200 (launch .user false [])) = some .userMode ∧
    reasonOf (runWord 0xE103F300 (launch .hyp false [])) = some .badGpr ∧
    reasonOf (runWord 0xE103F300 (launch .user false [])) = some .badGpr ∧
    reasonOf (runWord 0xF3E38D30 { launch .hyp false [] with params := ⟨true, true, true, false, 0xFFFFFFFF, true⟩ }) = some .badGpr ∧
    reasonOf (runWord 0xE1070200 (launch .hyp false [])) = some .badSysm ∧
    reasonOf (runWord 0xE1030B00 (launch .hyp false [])) = some .shouldBeBits := by decide
/-! ### Witnesses: for each obligation with hypotheses, values that meet them -/

/-- The four bytes of a word placed from `pc` on (an A32 word, or a T32 instruction). -/
def withBytes (s : State) (set : ISet) (w : Word) : State :=
  { s with iset := set, imem := writeBytes s.imem s.pc (bytesOfWord set w) }

def masked (s : State) : State := { s with params := ⟨true, true, true, false, 0xF8FF03DF, false⟩ }

theorem witness_ArgumentDecodeEqualsTables :
    decodeBankedArg ⟨0, 0⟩ = some .r8_usr ∧ decodeBankedArg ⟨0, 31⟩ = some .sp_hyp ∧
    decodeBankedArg ⟨1, 0b01110⟩ = some .spsr_fiq ∧ decodeBankedArg ⟨1, 30⟩ = some .spsr_hyp := by decide

theorem witness_ArgumentCodeRegularities :
    (1 : BitVec 5).extractLsb' 0 1 = 1 ∧ (31 : BitVec 5).extractLsb' 0 1 = 1 := by decide

theorem witness_DecodeEncodeArgumentRows :
    decodeBankedArg ⟨0, 0b00111⟩ = none ∧ decodeBankedArg ⟨1, 0⟩ = none ∧ decodeBankedArg ⟨1, 31⟩ = none := by decide

theorem witness_EncodeDecodedWordIsWord :
    decode .a32 (bytesOfWord .a32 0xE1030B00) = .ok (.mrsA1 .al 0 ⟨0, 0b10011⟩ 0b10 0) ∧
    decode .t32 (bytesOfWord .t32 0xF3EEA030) = .ok (.mrsT1 0 ⟨0, 0b11110⟩ 1 0 0) := ⟨rfl, rfl⟩

/-- An A32 word out of scope for `cond` = 1111 (2.3). -/
theorem witness_OutOfScopeWordsAreRefused_cond :
    readFour (withBytes (launch .hyp false []) .a32 0xF1030300) 0x1000 = some (bytesOfWord .a32 0xF1030300) ∧
    pcAligned (withBytes (launch .hyp false []) .a32 0xF1030300) = true ∧
    (0xF1030300 : Word).extractLsb' 28 4 = 0b1111 := by decide

/-- The A32 neighbours of 2.3. -/
theorem witness_OutOfScopeWordsAreRefused_a32 :
    readFour (withBytes (launch .hyp false []) .a32 0xE10F0000) 0x1000 = some (bytesOfWord .a32 0xE10F0000) ∧
    ((0xE10F0000 : Word) &&& 0x0FB002F0 ≠ 0x01000200 ∧ (0xE10F0000 : Word) &&& 0x0FB002F0 ≠ 0x01200200) ∧
    ((0xE129F000 : Word) &&& 0x0FB002F0 ≠ 0x01000200 ∧ (0xE129F000 : Word) &&& 0x0FB002F0 ≠ 0x01200200) := by decide

/-- A T32 neighbour of 2.3. -/
theorem witness_OutOfScopeWordsAreRefused_t32 :
    readFour (withBytes (launch .hyp false []) .t32 0xF3EF8000) 0x1000 = some (bytesOfWord .t32 0xF3EF8000) ∧
    isT32Wide ((0xF3EF8000 : Word).extractLsb' 16 16) = true ∧
    (0xF3EF8000 : Word) &&& 0xFFE0D020 ≠ 0xF3E08020 ∧ (0xF3EF8000 : Word) &&& 0xFFE0D020 ≠ 0xF3808020 := by decide

/-- The 16-bit halfword with the largest `hw1<15:11>`. -/
theorem witness_OutOfScopeWordsAreRefused_t16 :
    readFour (withBytes (launch .hyp false []) .t32 0xE7FF0000) 0x1000 = some (bytesOfWord .t32 0xE7FF0000) ∧
    isT32Wide ((0xE7FF0000 : Word).extractLsb' 16 16) = false := by decide

theorem witness_StepRunsDecodedInstruction :
    fetch (withBytes (launch .hyp false []) .a32 0xE1030300) = .ok [0x00, 0x03, 0x03, 0xE1] ∧
    decode .a32 [0x00, 0x03, 0x03, 0xE1] = .ok (.mrsA1 .al 0 ⟨0, 0b10011⟩ 0 0) := ⟨rfl, rfl⟩

/-- A word at the top of the address space, and a T32 instruction that goes round it. -/
theorem witness_StepRunsEncodedBytes :
    let s := withBytes { launch .hyp false [] with pc := 0xFFFFFFFC } .a32 0xE1030300
    let u := withBytes { launch .hyp false [] with pc := 0xFFFFFFFE } .t32 0xF3EE8330
    (pcAligned s = true ∧ encodeBytes (Instr.ofWord (.mrsA1 .al 0 0 0) ⟨0, 0b10011⟩) = [0x00, 0x03, 0x03, 0xE1] ∧
      s.readMem s.pc = some 0x00 ∧ s.readMem (s.pc + 1) = some 0x03 ∧ s.readMem (s.pc + 2) = some 0x03 ∧
      s.readMem (s.pc + 3) = some 0xE1) ∧
    (pcAligned u = true ∧ encodeBytes (Instr.ofWord (.mrsT1 3 0 0 0) ⟨0, 0b11110⟩) = [0xEE, 0xF3, 0x30, 0x83] ∧
      u.readMem u.pc = some 0xEE ∧ u.readMem (u.pc + 1) = some 0xF3 ∧ u.readMem (u.pc + 2) = some 0x30 ∧
      u.readMem (u.pc + 3) = some 0x83) := by decide

theorem witness_LoadedWordRunsNext :
    pcAligned { launch .hyp false [] with iset := (Form.mrsA1 .al 0 0 0).iset } = true ∧
    pcAligned { launch .hyp false [] with pc := 0x1002, iset := (Form.mrsT1 0 0 0 0).iset } = true := by decide

/-- Both misalignments, and for each of the four bytes a fetch for which it is the only undefined one. -/
theorem witness_StuckFetchStops :
    pcAligned { launch .hyp false [] with pc := 2 } = false ∧
    pcAligned { launch .hyp false [] with pc := 1, iset := .t32 } = false ∧
    (∀ m ∈ ([[1, 2, 3], [0, 2, 3], [0, 1, 3], [0, 1, 2]] : List (List Nat)),
      pcAligned { launch .hyp false [] with imem := m.map fun k => (0x1000 + k, 0) } = true) ∧
    State.readMem { launch .hyp false [] with imem := [(0x1001, 0), (0x1002, 0), (0x1003, 0)] } 0x1000 = none ∧
    State.readMem { launch .hyp false [] with imem := [(0x1000, 0), (0x1001, 0), (0x1002, 0)] } 0x1003 = none := by decide

/-- A T32 fetch reads both halfwords (R32): with the second undefined it is stuck (R35), a 16-bit first one included. -/
theorem test_t32_fetch_reads_both_halfwords :
    fetch { launch .hyp false [] with iset := .t32, imem := [(0x1000, 0x00), (0x1001, 0xBF)] } = .error .fetchUndefined ∧
    fetch { launch .hyp false [] with iset := .t32, imem := [(0x1000, 0xEE), (0x1001, 0xF3)] } = .error .fetchUndefined ∧
    decode .t32 [0x00, 0xBF, 0, 0] = .error (.notInScopeT16 0xBF00) := ⟨rfl, rfl, rfl⟩

/-- `Rd` = 14 in Hyp mode, and 13 in T32 under the later reading. -/
theorem witness_MrsWordRowsCopyRegister :
    curBank .hyp 14 = some (.banked .lr_usr) ∧ performedFrom (launch .hyp false []) .lr_svc = true ∧
    conditionPassed .al (launch .hyp false []) = true ∧
    curBank .hyp 13 = some (.banked .sp_hyp) ∧ (launch .hyp false []).params.t32R13Unpredictable = false := by decide

/-- Every kind of register the statement covers, with the SPSR copies under both kinds of mask. -/
theorem witness_MsrWordRowsCopyRegister :
    curBank .hyp 0 = some (.low 0) ∧ performedFrom (launch .hyp false []) .elr_hyp = true ∧
    curBank .supervisor 13 = some (.banked .sp_svc) ∧ performedFrom (masked (launch .supervisor true [])) .spsr_mon = true ∧
    conditionPassed .ge (launch .supervisor true []) = true ∧ isSpsr .elr_hyp = false ∧
    (launch .supervisor true []).params.spsrKeepMask = BitVec.allOnes 32 := by decide

/-- From Hyp, FIQ and Monitor mode each of the 33 registers is performed, in both directions. -/
theorem witness_ArgumentRowsCopyRegister :
    (∀ r ∈ bankedRegs, performedFrom (launch .hyp false []) r = true ∨ performedFrom (launch .fiq true []) r = true ∨
      performedFrom (launch .monitor true []) r = true) ∧
    (∀ f ∈ [Form.mrsA1 .al 14 0 0, .msrA1 .al 14 15 0, .mrsT1 0 0 0 0, .msrT1 13 0 0 0],
      formPasses f (launch .hyp false []) = true ∧ f.shouldBeOk = true ∧
      badGpr f (launch .hyp false []).params = false ∧ (curBank .hyp f.gpr).isSome = true) := by decide

theorem witness_SpsrWriteKeepsMaskedBits :
    isSpsr .elr_hyp = false ∧ isSpsr .spsr_fiq = true ∧ (launch .hyp false []).params.spsrKeepMask = 0xFFFFFFFF ∧
    (masked (launch .hyp false [])).params.spsrKeepMask ≠ 0xFFFFFFFF := by decide

theorem witness_FailedConditionOnlyAdvances :
    conditionPassed .eq (launch .user false []) = false ∧ (Form.mrsT1 15 1 0 0).iset = .t32 ∧
    formPasses (.mrsA1 .eq 15 0b11 0) (launch .user false []) = false ∧
    formPasses (.msrA1 .lt 0 15 0) (launch .hyp false []) = false := by decide

theorem witness_MrsFrame :
    (Instr.argSpSvc (.mrsT1 13 0 0 0)).form.direction = .mrs ∧
    isNext (exec (.argSpSvc (.mrsT1 13 0 0 0)) (launch .hyp false [])) = true ∧
    isNext (exec (.mrsA1 .eq 15 ⟨0, 0⟩ 0 0) (launch .user false [])) = true ∧
    curBank .hyp 13 ≠ some (.low 0) ∧ isSpsr .spsr_hyp = true := by decide

theorem witness_MsrFrame :
    (Instr.argSpsrSvc (.msrA1 .al 3 15 0)).form.direction = .msr ∧
    isNext (exec (.argSpsrSvc (.msrA1 .al 3 15 0)) (launch .hyp false [])) = true ∧
    isNext (exec (.argSpsrSvc (.msrA1 .al 3 15 0)) (masked (launch .hyp false []))) = true ∧
    (decodeBankedArg (Instr.argSpsrSvc (.msrA1 .al 3 15 0)).argument).map Reg.banked ≠ some (.banked .spsr_irq) ∧
    (launch .hyp false []).params.spsrKeepMask = 0xFFFFFFFF := by decide

theorem witness_SourceIsNeverDestination :
    checkBankedAccess (.mrsA1 .al 8 0 0) ⟨0, 0⟩ (launch .fiq false []) = .proceed .r8_usr ∧
    curBank .fiq 8 = some (.banked .r8_fiq) := by decide

theorem witness_MsrThenMrsReturnsValue :
    let s := launch .hyp false [(.low 0, 0x12345678)]
    let f := Form.msrA1 .al 0 15 0
    let g := Form.mrsT1 1 0 0 0
    f.direction = .msr ∧ g.direction = .mrs ∧ decodeBankedArg ⟨0, 0b10001⟩ = some .sp_irq ∧
    decodeBankedArg ⟨1, 0b10000⟩ = some .spsr_irq ∧ formPasses f s = true ∧ formPasses g s = true ∧
    g.shouldBeOk = true ∧ badGpr g s.params = false ∧ curBank s.mode f.gpr = some (.low 0) ∧
    curBank s.mode g.gpr = some (.low 1) ∧ isNext (exec (Instr.ofWord f ⟨0, 0b10001⟩) s) = true ∧
    isNext (exec (Instr.ofWord f ⟨1, 0b10000⟩) (masked s)) = true ∧
    isSpsr .sp_irq = false ∧ isSpsr .spsr_irq = true := by decide

theorem witness_MrsTwiceIsMrsOnce :
    (Instr.mrsA1 .al 14 ⟨0, 0b10010⟩ 0 0).form.direction = .mrs ∧
    isNext (exec (.mrsA1 .al 14 ⟨0, 0b10010⟩ 0 0) (launch .hyp false [])) = true := by decide

theorem witness_SecurityStateRestrictions :
    (∀ s ∈ [launch .supervisor false [], launch .system true [], launch .hyp false []],
      formPasses (Instr.argElrHyp tableForm).form s = true) ∧
    decodeBankedArg (Instr.argElrHyp tableForm).argument = some .elr_hyp ∧ isHypReg .elr_hyp = true ∧
    decodeBankedArg (Instr.argSpsrMon tableForm).argument = some .spsr_mon ∧ isMonitorReg .spsr_mon = true ∧
    Mode.isEl1Mode .supervisor = true ∧ Mode.isEl1Mode .system = true := by decide

/-- A register of each list, and one outside it, from a mode of each clause. -/
theorem witness_InaccessibleRegistersByMode :
    (∀ s ∈ [launch .monitor true [], launch .hyp false [], launch .fiq false [], launch .system true [],
        launch .supervisor true [], launch .irq false []],
      s.modeOk = true ∧ formPasses tableForm s = true ∧ badGpr tableForm s.params = false ∧
      ∀ r ∈ bankedRegs, implemented s.params r = true) ∧
    tableForm.shouldBeOk = true ∧
    reasonOf (exec (.argR12Usr tableForm) (launch .monitor true [])) = some .currentModeRegister ∧
    isNext (exec (.argElrHyp tableForm) (launch .hyp false [])) = true ∧
    reasonOf (exec (.argLrUsr tableForm) (launch .system true [])) = some .currentModeRegister ∧
    isNext (exec (.argSpMon tableForm) (launch .supervisor true [])) = true := by decide

/-- Each outcome the matrix can give: performed, trapped, Unpredictable for the four reasons it names. -/
theorem witness_AccessFollowsMatrix :
    (∀ s ∈ [launch .hyp false [], launch .user true [], launch .monitor true []],
      s.modeOk = true ∧ formPasses tableForm s = true ∧ badGpr tableForm s.params = false) ∧
    tableForm.shouldBeOk = true ∧
    State.modeOk { launch .irq true [] with params := a64El3 } = true ∧
    matrixAccess (launch .hyp false []) .elr_hyp = .proceed .elr_hyp ∧
    matrixAccess { launch .irq true [] with params := a64El3 } .lr_mon = .trapToEl3 ∧
    matrixAccess (launch .hyp false []) .lr_mon = .unpredictable .notAccessibleHere ∧
    matrixAccess (launch .user true []) .sp_svc = .unpredictable .userMode ∧
    matrixAccess (launch .monitor true []) .sp_mon = .unpredictable .currentModeRegister ∧
    matrixAccess { launch .fiq false [] with params := ⟨false, true, true, false, 0, false⟩ } .sp_hyp =
      .unpredictable .notImplemented := by decide

theorem witness_UnpredictableCodesStop :
    decodeBankedArg ⟨0, 0b00111⟩ = none ∧ decodeBankedArg ⟨0, 0b11011⟩ = none ∧ decodeBankedArg ⟨1, 31⟩ = none ∧
    formPasses (.msrT1 0 0 0 0) (launch .hyp false []) = true ∧ (Form.msrT1 0 0 0 0).shouldBeOk = true ∧
    badGpr (.msrT1 0 0 0 0) (launch .hyp false []).params = false ∧ (launch .hyp false []).mode ≠ .user := by decide

theorem witness_WrongFieldsAreUnpredictable :
    (∀ i ∈ [Instr.mrsA1 .al 0 ⟨0, 0⟩ 0b10 0, .argSpUsr (.msrA1 .al 15 15 0), .argSpUsr (.mrsT1 13 0 0 0)],
      formPasses i.form (launch .hyp false []) = true) ∧
    (Instr.mrsA1 .al 0 ⟨0, 0⟩ 0b10 0).form.shouldBeOk = false ∧
    (Instr.argSpUsr (.msrA1 .al 15 15 0)).form.shouldBeOk = true ∧ (Instr.argSpUsr (.msrA1 .al 15 15 0)).form.gpr = 15 ∧
    (Instr.argSpUsr (.mrsT1 13 0 0 0)).form.shouldBeOk = true ∧ (Instr.argSpUsr (.mrsT1 13 0 0 0)).form.iset = .t32 ∧
    (Instr.argSpUsr (.mrsT1 13 0 0 0)).form.gpr = 13 ∧
    State.params { launch .hyp false [] with params := ⟨true, true, true, false, 0xFFFFFFFF, true⟩ } =
      ⟨true, true, true, false, 0xFFFFFFFF, true⟩ := by decide

theorem witness_UserModeTransfersNothing :
    (launch .user false []).mode = .user ∧
    formPasses (Instr.mrsA1 .eq 0 ⟨0, 0⟩ 0 0).form (launch .user false []) = false ∧
    formPasses (Instr.argSpMon (.msrT1 14 0 0 0)).form (launch .user false []) = true ∧
    (Instr.argSpMon (.msrT1 14 0 0 0)).form.shouldBeOk = true ∧
    badGpr (Instr.argSpMon (.msrT1 14 0 0 0)).form (launch .user false []).params = false := by decide

/-- The condition of the trap met in a well-formed state, and the trap taken. -/
theorem witness_TrapToEl3Exactly :
    let s : State := { launch .system true [] with params := a64El3 }
    s.modeOk = true ∧ decodeBankedArg (Instr.argSpsrMon (.msrT1 14 0 0 0)).argument = some .spsr_mon ∧
    formPasses (.msrT1 14 0 0 0) s = true ∧ badGpr (.msrT1 14 0 0 0) s.params = false ∧
    trapOf (exec (.argSpsrMon (.msrT1 14 0 0 0)) s) = some s := by decide

theorem witness_WorkedRegisterSets : (0 : GprNum).toNat ≤ 7 ∧ (7 : GprNum).toNat ≤ 7 ∧ curBank .fiq 7 = some (.low 7) := by decide

/-- A mode of each clause, both cases of the six modes, a step that goes on, and a completion at EL0. -/
theorem witness_ExceptionLevelOfModes :
    (launch .hyp false []).mode = .hyp ∧ (launch .monitor true []).mode = .monitor ∧
    Mode.irq ∈ ([.fiq, .irq, .supervisor, .abort, .undefined, .system] : List Mode) ∧
    exceptionLevel { launch .irq true [] with params := a64El3 } = .el1 ∧
    exceptionLevel (launch .irq true []) = .el3 ∧ exceptionLevel (launch .system false []) = .el1 ∧
    isNext (step (withBytes (launch .hyp false []) .a32 0xE1030300)) = true ∧
    exceptionLevel (launch .user false []) = .el0 ∧
    isNext (exec (.mrsA1 .eq 0 ⟨0, 0⟩ 0 0) (launch .user false [])) = true := by decide

theorem witness_StepKeepsWellFormed :
    let s := withBytes { launch .hyp false [] with pc := 0xFFFFFFFE } .t32 0xF3EE8330
    s.wellFormed = true ∧ isNext (step s) = true := by decide

/-- Two instructions one after the other: `MRS R10, ELR_hyp` and `MSR SP_usr, R1`. -/
def twoWords (s : State) : State :=
  { s with imem := writeBytes (writeBytes [] s.pc (bytesOfWord .a32 0xE10EA300)) (s.pc + 4) (bytesOfWord .a32 0xE125F201) }

theorem witness_RunIsStraightLine : ∃ t, Host.Core.run Sys2Proof.core 2 (twoWords (launch .hyp false [])) = .next t ∧
    t.pc = 0x1008 := ⟨_, rfl, rfl⟩

/-- A start with legal modes from which two steps are safe, the second word of it, and one step more that is not. -/
theorem witness_SafeRunsAreDecidedAtStart :
    (twoWords (launch .hyp false [])).modeOk = true ∧ safeFor 2 (twoWords (launch .hyp false [])) = true ∧
    safeFor 3 (twoWords (launch .hyp false [])) = false ∧
    performedFrom (launch .hyp false []) .sp_usr = true := by decide

/-- Two Hyp mode states that differ in `LR_mon` only, and two in Supervisor mode that differ in `ELR_hyp`; a run of
each completes. -/
theorem witness_ProtectedRegistersAreIsolated :
    (launch .hyp false []).modeOk = true ∧ protectedReg (launch .hyp false []) .lr_mon = true ∧
    ((twoWords (launch .hyp false [])).setCell (.banked .lr_mon) 5 ≠ twoWords (launch .hyp false [])) ∧
    (∃ t, Host.Core.run Sys2Proof.core 2 (twoWords (launch .hyp false [])) = .next t) ∧
    protectedReg (launch .supervisor true []) .elr_hyp = true ∧
    ∃ t, Host.Core.run Sys2Proof.core 1 (withBytes (launch .supervisor true []) .a32 0xE125F201) = .next t :=
  ⟨by decide, by decide, by decide, ⟨_, rfl⟩, by decide, ⟨_, rfl⟩⟩

/-- The cell hypothesis of the same statement: a change of a protected cell is seen in no other. -/
theorem witness_ProtectedRegistersAreIsolated_cells (q : Reg)
    (hq : ∀ reg, q = .banked reg → protectedReg (launch .hyp false []) reg = false) :
    (launch .hyp false []).cell q = ((launch .hyp false []).setCell (.banked .lr_mon) 5).cell q := by
  refine (State.cell_setCell_of_ne _ _ ?_).symm
  rintro rfl
  exact absurd (hq .lr_mon rfl) (by decide)

end Sys2Proof.Tests
end

/-! SUPPORT. Proofs of the family 00_scope: what one step is, and the closed list of its outcomes (R8). -/

namespace Sys2Proof.Machine

/-! ### What a fetch, an instruction and a step answer -/

/-- The outcomes of a fetch: one of the two stuck fetches (R33, R35; log 10), or bytes. -/
theorem fetch_cases (s : State) :
    fetch s = .error .fetchMisaligned ∨ fetch s = .error .fetchUndefined ∨ ∃ bytes, fetch s = .ok bytes := by
  cases ha : pcAligned s with
  | false => exact .inl (fetch_misaligned ha)
  | true =>
    cases hr : readFour s s.pc with
    | none => exact .inr (.inl (fetch_undefined ha hr))
    | some bytes => exact .inr (.inr ⟨bytes, fetch_eq_ok ha hr⟩)

/-- Step 2 of the decode does not change what an instruction does: both are the transfer on one form and one
argument (R58). -/
theorem exec_resolve (i : Instr) (s : State) : exec i.resolve s = exec i s := by
  obtain ⟨hform, harg, -⟩ := Sys2Proof.Laws.ResolveKeepsWord.statement_holds i
  rw [exec_eq_bankedTransfer, exec_eq_bankedTransfer, hform, harg]

/-- The outcomes of an instruction (R8): those of its transfer, so it is never refused. -/
theorem exec_cases (i : Instr) (s : State) :
    (∃ t, exec i s = .next t) ∨ exec i s = .fault (.trapToEl3 s) ∨
    ∃ why, exec i s = .fault (.unpredictable why) := by
  rw [exec_eq_bankedTransfer]
  exact bankedTransfer_cases i.form i.argument s

theorem step_of_fetch_error {s : State} {why : Fault} (hf : fetch s = .error why) : step s = .fault why := by
  simp only [step, hf]

theorem step_of_decode_error {s : State} {bytes : List Byte} {what : DecodeError}
    (hf : fetch s = .ok bytes) (hd : decode s.iset bytes = .error what) :
    step s = .refused (.notInScope what) := by
  simp only [step, hf, hd]

theorem step_of_decode_ok {s : State} {bytes : List Byte} {i : Instr}
    (hf : fetch s = .ok bytes) (hd : decode s.iset bytes = .ok i) : step s = exec i s := by
  simp only [step, hf, hd]

/-! ### The two statements -/

/-- Settles O8: the step is the meaning of the decoded instruction, which its argument row shares. -/
theorem stepRunsDecodedInstruction : Obligations.StepRunsDecodedInstruction := by
  intro s bytes i hf hd
  have hstep : step s = exec i s := step_of_decode_ok hf hd
  exact ⟨hstep, hstep.trans (exec_resolve i s).symm⟩

/-- Settles O37, along the three stages of a step: the fetch, the decode and the instruction. -/
theorem stepOutcomesAreClosed : Obligations.StepOutcomesAreClosed := by
  intro s
  rcases fetch_cases s with hf | hf | ⟨bytes, hf⟩
  · exact .inr (.inr (.inr (.inl (step_of_fetch_error hf))))
  · exact .inr (.inr (.inr (.inr (.inl (step_of_fetch_error hf)))))
  · cases hd : decode s.iset bytes with
    | error what => exact .inr (.inr (.inr (.inr (.inr ⟨what, step_of_decode_error hf hd⟩))))
    | ok i =>
      rw [step_of_decode_ok hf hd]
      rcases exec_cases i s with hnext | htrap | hunpredictable
      · exact .inl hnext
      · exact .inr (.inl htrap)
      · exact .inr (.inr (.inl hunpredictable))

end Sys2Proof.Machine

/-! SUPPORT. Proofs of the family 10_state: the current mode registers (R18), the Exception level (R22), and the
premises on a state that every step keeps (R29, R33). -/

namespace Sys2Proof.Machine

/-! ### What depends on the control state alone -/

/-- `modeOk` reads the mode, the Security state and the parameters, and nothing else (R29). -/
theorem State.modeOk_congr {s t : State} (hmode : t.mode = s.mode) (hsecure : t.secure = s.secure)
    (hparams : t.params = s.params) : t.modeOk = s.modeOk := by
  unfold State.modeOk
  rw [hmode, hsecure, hparams]

/-- The Exception level is a function of the mode, the Security state and the parameters (R22). -/
theorem exceptionLevel_congr {s t : State} (hmode : t.mode = s.mode) (hsecure : t.secure = s.secure)
    (hparams : t.params = s.params) : exceptionLevel t = exceptionLevel s := by
  unfold exceptionLevel
  rw [hmode, hsecure, hparams]

/-- The low bits that an alignment looks at do not see a step of 4, nor a wrap at 2^32 (R23, R33). -/
theorem extractLsb'_add_four {n : Nat} (w : Word) (hn : n ≤ 2) :
    (w + 4).extractLsb' 0 n = w.extractLsb' 0 n := by
  have hfour : (4 : Word).setWidth n = 0 := by interval_cases n <;> rfl
  have hle : n ≤ 32 := by omega
  rw [← BitVec.setWidth_eq_extractLsb' hle, ← BitVec.setWidth_eq_extractLsb' hle, BitVec.setWidth_add _ _ hle, hfour]
  exact BitVec.add_zero _

/-- Moving `pc` on by 4 keeps its alignment in either instruction set (R23, R33). -/
theorem pcAligned_of_pc_add_four {s t : State} (hpc : t.pc = s.pc + 4) (hiset : t.iset = s.iset) :
    pcAligned t = pcAligned s := by
  unfold pcAligned
  rw [hpc, hiset]
  cases s.iset with
  | a32 => simp only [extractLsb'_add_four s.pc (Nat.le_refl 2)]
  | t32 => simp only [extractLsb'_add_four s.pc (show 1 ≤ 2 by decide)]

theorem State.wellFormed_iff (s : State) :
    s.wellFormed = true ↔ s.modeOk = true ∧ pcAligned s = true ∧ Memory.wf s.imem = true := by
  simp only [State.wellFormed, Bool.and_eq_true, and_assoc]

/-- Settles O33: each of the three premises is a function of fields that a step keeps, or moves by 4 (`pc`). -/
theorem stepKeepsWellFormed : Obligations.StepKeepsWellFormed := by
  intro s t hwf hstep
  obtain ⟨hpc, hmode, hsecure, -, -, -, -, hiset, himem, hparams⟩ := step_next_frame hstep
  obtain ⟨hmodes, haligned, hmem⟩ := s.wellFormed_iff.mp hwf
  refine t.wellFormed_iff.mpr ⟨?_, ?_, ?_⟩
  · rwa [State.modeOk_congr hmode hsecure hparams]
  · rwa [pcAligned_of_pc_add_four hpc hiset]
  · rwa [himem]

/-! ### The current mode registers (R18) -/

/-- Numbers 0 to 7 are the unbanked cells, whatever the mode (R12). -/
theorem curBank_low (m : Mode) (k : Fin 8) : curBank m (BitVec.ofNat 4 k) = some (.low k) := by
  fin_cases k <;> rfl

/-- Settles O31, a column of the table at a time; numbers 13 and 14 are the mode's SP and LR copies. -/
theorem workedRegisterSets : Obligations.WorkedRegisterSets := by
  refine ⟨?low, ?eightToTwelve, ?spLrSpsrElr, rfl, rfl⟩
  case low =>
    intro m i hi
    exact ⟨⟨i.toNat, by omega⟩, rfl, by simpa using curBank_low m ⟨i.toNat, by omega⟩⟩
  case eightToTwelve => intro m; cases m <;> rfl
  case spLrSpsrElr => intro m; cases m <;> rfl

/-! ### The Exception level (R22) -/

theorem exceptionLevel_of_user {s : State} (h : s.mode = .user) : exceptionLevel s = .el0 := by
  simp only [exceptionLevel, h]

theorem exceptionLevel_of_hyp {s : State} (h : s.mode = .hyp) : exceptionLevel s = .el2 := by
  simp only [exceptionLevel, h]

theorem exceptionLevel_of_monitor {s : State} (h : s.mode = .monitor) : exceptionLevel s = .el3 := by
  simp only [exceptionLevel, h]

/-- The six other modes are at EL3 in a Secure state under an AArch32 EL3, and at EL1 otherwise. -/
theorem exceptionLevel_of_isEl1Mode {s : State} (h : s.mode.isEl1Mode = true) :
    exceptionLevel s =
      if s.secure = true ∧ s.params.haveEl3 = true ∧ s.params.el3UsesAarch32 = true then .el3 else .el1 := by
  unfold exceptionLevel
  cases hm : s.mode with
  | user | hyp | monitor => rw [hm] at h; cases h
  | fiq | irq | supervisor | abort | undefined | system => simp only [Bool.and_eq_true, and_assoc]

theorem isEl1Mode_of_mem {m : Mode} (h : m ∈ [Mode.fiq, .irq, .supervisor, .abort, .undefined, .system]) :
    m.isEl1Mode = true := by
  cases m with
  | user | hyp | monitor => exact absurd h (by decide)
  | fiq | irq | supervisor | abort | undefined | system => rfl

/-- Only User mode is at EL0. -/
theorem mode_eq_user_of_exceptionLevel_el0 {s : State} (h : exceptionLevel s = .el0) : s.mode = .user := by
  cases hm : s.mode with
  | user => rfl
  | hyp => rw [exceptionLevel_of_hyp hm] at h; cases h
  | monitor => rw [exceptionLevel_of_monitor hm] at h; cases h
  | fiq | irq | supervisor | abort | undefined | system =>
    rw [exceptionLevel_of_isEl1Mode (by rw [hm]; rfl)] at h
    split at h <;> cases h

/-- In User mode no check proceeds, so an instruction that answers a next state has a failed condition and only
advances (R60, R57; log 12). -/
theorem exec_next_of_user {i : Instr} {s t : State} (hm : s.mode = .user) (h : exec i s = .next t) :
    formPasses i.form s = false ∧ t = s.advance := by
  rw [exec_eq_bankedTransfer] at h
  rcases bankedTransfer_next h with hskip | ⟨reg, gpr, hproceed, -⟩
  · exact hskip
  · obtain ⟨-, -, -, hnotUser, -⟩ := (checkBankedAccess_eq_proceed_iff i.form i.argument s reg).mp hproceed
    exact absurd hm hnotUser

/-- Settles O32: the map mode by mode, then its two meetings with the machine. -/
theorem exceptionLevelOfModes : Obligations.ExceptionLevelOfModes := by
  refine ⟨fun s => ⟨exceptionLevel_of_user, exceptionLevel_of_hyp, exceptionLevel_of_monitor, fun hm => ?_⟩,
    fun s t hstep => ?_, fun i s t hel0 hexec => ?_⟩
  · have hlevel := exceptionLevel_of_isEl1Mode (isEl1Mode_of_mem hm)
    exact ⟨fun hsecure => by rw [hlevel, if_pos hsecure], fun hnot => by rw [hlevel, if_neg hnot]⟩
  · obtain ⟨-, hmode, hsecure, -, -, -, -, -, -, hparams⟩ := step_next_frame hstep
    exact exceptionLevel_congr hmode hsecure hparams
  · exact (exec_next_of_user (mode_eq_user_of_exceptionLevel_el0 hel0) hexec).2

end Sys2Proof.Machine

/-! SUPPORT. Proofs of the family 20_memory: the encoder and the decoder meet (R45 to R48), and what the step makes of
the bytes at `pc` (R31 to R35). -/

namespace Sys2Proof

/-! ### Decoding an encoded word row -/

theorem decodeA32_encode_mrsA1 (cond : Cond) (rd : GprNum) (c : ArgCode) (hi : BitVec 2) (lo : BitVec 4) :
    decodeA32 (encode (.mrsA1 cond rd c hi lo)) = .ok (.mrsA1 cond rd c hi lo) := by
  obtain ⟨hcond, hr, hm1, hrd, hhi, hm, hlo, hrow⟩ :=
    fields_mrsA1 (w := encode (.mrsA1 cond rd c hi lo)) cond.bits c.r (c.sysm.extractLsb' 0 4) rd hi
      (c.sysm.extractLsb' 4 1) lo rfl
  simp only [decodeA32, hcond, ofBits_bits, hrow, if_true, hr, hm1, hrd, hhi, hm, hlo, argOfFields_extract]

theorem decodeA32_encode_msrA1 (cond : Cond) (rn : GprNum) (c : ArgCode) (sbo : BitVec 4) (sbz : BitVec 2) :
    decodeA32 (encode (.msrA1 cond rn c sbo sbz)) = .ok (.msrA1 cond rn c sbo sbz) := by
  obtain ⟨hcond, hr, hm1, hsbo, hsbz, hm, hrn, hrow⟩ :=
    fields_msrA1 (w := encode (.msrA1 cond rn c sbo sbz)) cond.bits c.r (c.sysm.extractLsb' 0 4) sbo sbz
      (c.sysm.extractLsb' 4 1) rn rfl
  have hnotMrs := matchesRow_exclusive (u := 0x01000200) (by decide) hrow
  simp only [decodeA32, hcond, ofBits_bits, hnotMrs, Bool.false_eq_true, if_false, hrow, if_true, hr, hm1, hrn, hsbo,
    hsbz, hm, argOfFields_extract]

theorem decodeT32_encode_mrsT1 (rd : GprNum) (c : ArgCode) (a : BitVec 1) (b : BitVec 2) (d : BitVec 4) :
    decodeT32 (encode (.mrsT1 rd c a b d)) = .ok (.mrsT1 rd c a b d) := by
  obtain ⟨hr, hm1, ha, hrd, hb, hm, hd, hrow⟩ :=
    fields_mrsT1 (w := encode (.mrsT1 rd c a b d)) c.r (c.sysm.extractLsb' 0 4) a rd b (c.sysm.extractLsb' 4 1) d rfl
  simp only [decodeT32, hrow, if_true, hr, hm1, ha, hrd, hb, hm, hd, argOfFields_extract]

theorem decodeT32_encode_msrT1 (rn : GprNum) (c : ArgCode) (a : BitVec 1) (b : BitVec 2) (d : BitVec 4) :
    decodeT32 (encode (.msrT1 rn c a b d)) = .ok (.msrT1 rn c a b d) := by
  obtain ⟨hr, hrn, ha, hm1, hb, hm, hd, hrow⟩ :=
    fields_msrT1 (w := encode (.msrT1 rn c a b d)) c.r rn a (c.sysm.extractLsb' 0 4) b (c.sysm.extractLsb' 4 1) d rfl
  have hnotMrs := matchesRow_exclusive (u := 0xF3E08020) (by decide) hrow
  simp only [decodeT32, hnotMrs, Bool.false_eq_true, if_false, hrow, if_true, hr, hrn, ha, hm1, hb, hm, hd,
    argOfFields_extract]

/-- What the T32 decoder takes matches one of its two rows (R47, R48). -/
theorem matchesRow_of_decodeT32 {w : Word} {i : Instr} (h : decodeT32 w = .ok i) :
    ∃ v : Word, (v = 0xF3E08020 ∨ v = 0xF3808020) ∧ matchesRow 0xFFE0D020 v w = true := by
  unfold decodeT32 at h
  split_ifs at h with hmrs hmsr
  · exact ⟨_, .inl rfl, hmrs⟩
  · exact ⟨_, .inr rfl, hmsr⟩

/-- What the T32 decoder takes is a 32-bit instruction, so decoding its four bytes takes it too (R53). -/
theorem decode_t32_of_decodeT32 {w : Word} {i : Instr} (h : decodeT32 w = .ok i) :
    decode .t32 (bytesOfWord .t32 w) = .ok i := by
  obtain ⟨v, hv, hrow⟩ := matchesRow_of_decodeT32 h
  rw [decode_t32_bytesOfWord (isT32Wide_of_matchesRow hv hrow), h]

/-- The decoder reads a word row back from its bytes, every field at every value (R45 to R48). -/
theorem decode_encodeBytes_ofWord (f : Form) (c : ArgCode) :
    decode f.iset (encodeBytes (Instr.ofWord f c)) = .ok (Instr.ofWord f c) := by
  cases f with
  | mrsA1 cond rd hi lo => exact (decode_a32_bytesOfWord _).trans (decodeA32_encode_mrsA1 cond rd c hi lo)
  | msrA1 cond rn sbo sbz => exact (decode_a32_bytesOfWord _).trans (decodeA32_encode_msrA1 cond rn c sbo sbz)
  | mrsT1 rd a b d => exact decode_t32_of_decodeT32 (decodeT32_encode_mrsT1 rd c a b d)
  | msrT1 rn a b d => exact decode_t32_of_decodeT32 (decodeT32_encode_msrT1 rn c a b d)

/-! ### The bits that tell a word's instruction set (log 16) -/

/-- No A32 word has `1111` in bits 31:28, which is no condition (R55, R57). -/
theorem topBits_of_decodeA32 {w : Word} {i : Instr} (h : decodeA32 w = .ok i) : w.extractLsb' 28 4 ≠ 0b1111 := by
  intro htop
  have hnone : Cond.ofBits 0b1111 = none := rfl
  simp only [decodeA32, htop, hnone, reduceCtorEq] at h

/-- Every T32 word has `1111` in bits 31:28: they are fixed bits of both rows (R47, R48). -/
theorem topBits_of_decodeT32 {w : Word} {i : Instr} (h : decodeT32 w = .ok i) : w.extractLsb' 28 4 = 0b1111 := by
  obtain ⟨v, hv, hrow⟩ := matchesRow_of_decodeT32 h
  have hvTop : v.extractLsb' 28 4 = 0b1111 := by rcases hv with rfl | rfl <;> rfl
  rw [← hvTop]
  apply BitVec.eq_of_getLsbD_eq
  intro k hk
  have hmask : (0xFFE0D020 : Word).getLsbD (28 + k) = true := by interval_cases k <;> rfl
  simp only [BitVec.getLsbD_extractLsb', getLsbD_of_matchesRow hrow hmask]

/-- Bits 31:28 of an encoded word row tell its instruction set. -/
theorem encode_ofWord_topBits_iff (f : Form) (c : ArgCode) :
    (encode (Instr.ofWord f c)).extractLsb' 28 4 = 0b1111 ↔ f.iset = .t32 := by
  cases f with
  | mrsA1 cond rd hi lo =>
    exact iff_of_false (topBits_of_decodeA32 (decodeA32_encode_mrsA1 cond rd c hi lo)) ISet.noConfusion
  | msrA1 cond rn sbo sbz =>
    exact iff_of_false (topBits_of_decodeA32 (decodeA32_encode_msrA1 cond rn c sbo sbz)) ISet.noConfusion
  | mrsT1 rd a b d => exact iff_of_true (topBits_of_decodeT32 (decodeT32_encode_mrsT1 rd c a b d)) rfl
  | msrT1 rn a b d => exact iff_of_true (topBits_of_decodeT32 (decodeT32_encode_msrT1 rn c a b d)) rfl

/-- Table bits of width 32 are the word itself; its bits 31:28 choose the instruction set. -/
theorem tableWord_toNat (w : Word) :
    tableWord 32 w.toNat = if w.extractLsb' 28 4 = 0b1111 then (.t32, w) else (.a32, w) := by
  have hwidth : isArgumentWidth 32 = false := rfl
  simp only [tableWord, hwidth, Bool.false_eq_true, if_false, BitVec.ofNat_toNat, BitVec.setWidth_eq]

/-- The table word of an encoded word row is that word, in the instruction set of its encoding. -/
theorem tableWord_encode_ofWord (f : Form) (c : ArgCode) :
    tableWord 32 (encode (Instr.ofWord f c)).toNat = (f.iset, encode (Instr.ofWord f c)) := by
  rw [tableWord_toNat]
  simp only [encode_ofWord_topBits_iff]
  cases f.iset <;> rfl

/-- The table bytes of an encoded word row are the bytes of its encoding. -/
theorem tableBytes_encode_ofWord (f : Form) (c : ArgCode) :
    tableBytes 32 (encode (Instr.ofWord f c)).toNat = encodeBytes (Instr.ofWord f c) := by
  rw [tableBytes, tableWord_encode_ofWord, encodeBytes, Machine.form_ofWord]

/-- An instruction's encoding has four bytes in either instruction set (R31, R32). -/
theorem encodeBytes_eq_four (i : Instr) : ∃ b0 b1 b2 b3, encodeBytes i = [b0, b1, b2, b3] := by
  unfold encodeBytes
  cases i.form.iset with
  | a32 => exact ⟨_, _, _, _, rfl⟩
  | t32 => exact ⟨_, _, _, _, rfl⟩

end Sys2Proof

namespace Sys2Proof.Machine

/-! ### The step on the bytes at `pc` -/

/-- Alignment looks at `pc` and the instruction set, and at nothing else (R33). -/
theorem pcAligned_congr {s t : State} (hpc : t.pc = s.pc) (hiset : t.iset = s.iset) : pcAligned t = pcAligned s := by
  unfold pcAligned
  rw [hpc, hiset]

/-- Settles O9: the fetch reads the four bytes, and the decoder reads the instruction back from them. -/
theorem stepRunsEncodedBytes : Obligations.StepRunsEncodedBytes := by
  intro s f c b0 b1 b2 b3 hiset haligned hbytes h0 h1 h2 h3
  have hfetch : fetch s = .ok [b0, b1, b2, b3] := fetch_eq_ok haligned (readFour_of_bytes h0 h1 h2 h3)
  have hdecode : decode s.iset [b0, b1, b2, b3] = .ok (Instr.ofWord f c) := by
    rw [← hiset, ← hbytes]
    exact decode_encodeBytes_ofWord f c
  exact step_of_decode_ok hfetch hdecode

/-! ### The load of one instruction (log 7) -/

@[simp] theorem State.withFetchWord_pc (s : State) (nbits w : Nat) : (s.withFetchWord nbits w).pc = s.pc := rfl

@[simp] theorem State.withFetchWord_iset (s : State) (nbits w : Nat) :
    (s.withFetchWord nbits w).iset = (tableWord nbits w).1 := rfl

@[simp] theorem State.withFetchWord_imem (s : State) (nbits w : Nat) :
    (s.withFetchWord nbits w).imem = writeBytes s.imem s.pc (tableBytes nbits w) := rfl

/-- Settles O10: the load selects the instruction set of the word and puts its four bytes where O9 wants them. -/
theorem loadedWordRunsNext : Obligations.LoadedWordRunsNext := by
  intro s f c haligned
  have hiset : (s.withFetchWord 32 (encode (Instr.ofWord f c)).toNat).iset = f.iset := by
    rw [State.withFetchWord_iset, tableWord_encode_ofWord]
  obtain ⟨b0, b1, b2, b3, hbytes⟩ := encodeBytes_eq_four (Instr.ofWord f c)
  have himem : (s.withFetchWord 32 (encode (Instr.ofWord f c)).toNat).imem =
      writeBytes s.imem s.pc [b0, b1, b2, b3] := by
    rw [State.withFetchWord_imem, tableBytes_encode_ofWord, hbytes]
  obtain ⟨h0, h1, h2, h3⟩ := readByte_writeBytes_four s.imem s.pc b0 b1 b2 b3
  rw [← himem] at h0 h1 h2 h3
  have hloaded : pcAligned (s.withFetchWord 32 (encode (Instr.ofWord f c)).toNat) = true :=
    haligned ▸ pcAligned_congr (State.withFetchWord_pc ..) hiset
  exact stepRunsEncodedBytes _ f c b0 b1 b2 b3 hiset.symm hloaded hbytes h0 h1 h2 h3

/-! ### A stuck fetch (log 10) -/

/-- Settles O11: the fetch is stuck for either reason, and the step passes its fault on. -/
theorem stuckFetchStops : Obligations.StuckFetchStops := by
  intro s
  refine ⟨fun hmisaligned => ?_, fun haligned hundefined => ?_⟩
  · exact step_of_fetch_error (fetch_misaligned hmisaligned)
  · exact step_of_fetch_error (fetch_undefined haligned (readFour_eq_none_of_byte hundefined))

end Sys2Proof.Machine

/-! SUPPORT. Proofs of the family 30_encoding: the register argument (R41 to R44, R54), the words (R45 to R50), what
is out of scope (R53, R55), and the checks on an instruction's condition and fields (R50, R52, R57). -/

namespace Sys2Proof

/-! ### Both steps of the decode on an instruction's bytes (R58) -/

/-- Settles O3: the four rows, each read back from its bytes. -/
theorem decodeEncodeWordRows : Obligations.DecodeEncodeWordRows :=
  fun f c => decode_encodeBytes_ofWord f c

/-- An instruction's bytes are those of its encoding and its argument, which its word row shares. -/
theorem encodeBytes_assemble (i : Instr) : encodeBytes i.assemble = encodeBytes i := by
  simp only [encodeBytes, encode, Instr.assemble, Machine.form_ofWord, Machine.argument_ofWord]

/-- Step 1 of the decode, on the bytes of any instruction, gives its word row. -/
theorem decode_encodeBytes (i : Instr) : decode i.form.iset (encodeBytes i) = .ok i.assemble := by
  rw [← encodeBytes_assemble]
  exact decode_encodeBytes_ofWord i.form i.argument

/-- Step 2 of the decode looks at the encoding and the argument, which a word row keeps. -/
theorem resolve_assemble (i : Instr) : i.assemble.resolve = i.resolve := by
  simp only [Instr.resolve, Instr.assemble, Machine.form_ofWord, Machine.argument_ofWord]

theorem resolve_ofBanked (f : Form) (reg : BankedReg) : (Instr.ofBanked f reg).resolve = Instr.ofBanked f reg := by
  simp only [Instr.resolve, Instr.ofArgument, Machine.form_ofBanked, Machine.argument_ofBanked,
    Machine.decodeBankedArg_encodeBankedArg]

theorem resolve_argConstrainedUnpredictable {c : ArgCode} (f : Form) (hc : decodeBankedArg c = none) :
    (Instr.argConstrainedUnpredictable c f).resolve = .argConstrainedUnpredictable c f := by
  simp only [Instr.resolve, Instr.ofArgument, Instr.form, Instr.argument, hc]

/-- Both steps of the decode give back every instruction that step 2 leaves as it is. -/
theorem decode_then_resolve {i : Instr} (hi : i.resolve = i) :
    ∃ j, decode i.form.iset (encodeBytes i) = .ok j ∧ j.resolve = i :=
  ⟨i.assemble, decode_encodeBytes i, (resolve_assemble i).trans hi⟩

/-- Settles O4: both kinds of argument row are fixed by step 2. -/
theorem decodeEncodeArgumentRows : Obligations.DecodeEncodeArgumentRows := by
  refine ⟨fun f reg => ?_, fun f c hc => ?_⟩
  · have hdecode := decode_then_resolve (resolve_ofBanked f reg)
    rwa [Machine.form_ofBanked] at hdecode
  · exact decode_then_resolve (resolve_argConstrainedUnpredictable f hc)

/-! ### The words that decode (R45 to R50) -/

/-- A field of a word, put back at its place, is the word under the mask of that field. -/
theorem placed_extractLsb' (w : Word) (lo n : Nat) :
    placed (w.extractLsb' lo n) lo = w &&& placed (BitVec.allOnes n) lo := by
  apply BitVec.eq_of_getLsbD_eq
  intro i hi
  simp only [placed, BitVec.getLsbD_shiftLeft, BitVec.getLsbD_setWidth, BitVec.getLsbD_extractLsb', BitVec.getLsbD_and,
    BitVec.getLsbD_allOnes]
  by_cases hlo : i < lo
  · simp [hlo]
  · have hsum : lo + (i - lo) = i := by omega
    simp only [hsum]
    cases w.getLsbD i <;> simp

/-- The A32 decoder loses no bit: under each row, the masks of the row and of its fields cover all 32 bits (R45, R46). -/
theorem encode_of_decodeA32 {w : Word} {i : Instr} (h : decodeA32 w = .ok i) : encode i = w ∧ i.form.iset = .a32 := by
  unfold decodeA32 at h
  split at h
  · cases h
  next cond hcond =>
    have hbits : cond.bits = w.extractLsb' 28 4 := bits_of_ofBits hcond
    split_ifs at h with hrow hrow
    all_goals
      cases h
      refine ⟨?_, rfl⟩
      simp only [encode, Instr.form, Instr.argument, argOfFields_m, argOfFields_m1, hbits]
      simp only [argOfFields, placed_extractLsb', ← beq_iff_eq.mp hrow, ← BitVec.and_or_distrib_left]
      exact BitVec.and_allOnes

/-- The T32 decoder loses no bit, likewise (R47, R48). -/
theorem encode_of_decodeT32 {w : Word} {i : Instr} (h : decodeT32 w = .ok i) : encode i = w ∧ i.form.iset = .t32 := by
  unfold decodeT32 at h
  split_ifs at h with hrow hrow
  all_goals
    cases h
    refine ⟨?_, rfl⟩
    simp only [encode, Instr.form, Instr.argument, argOfFields_m, argOfFields_m1]
    simp only [argOfFields, placed_extractLsb', ← beq_iff_eq.mp hrow, ← BitVec.and_or_distrib_left]
    exact BitVec.and_allOnes

/-- Bytes whose first halfword is a 16-bit instruction are refused by that halfword (R53, R55; log 17). -/
theorem decode_t32_of_not_wide {w : Word} (h : isT32Wide (w.extractLsb' 16 16) = false) :
    decode .t32 (bytesOfWord .t32 w) = .error (.notInScopeT16 (w.extractLsb' 16 16)) := by
  simp only [decode, bytesOfWord, halfOfBytes_extract_high, h, Bool.false_eq_true, if_false]

/-- Settles O5: in T32 a word that decodes is no 16-bit instruction, and either decoder loses no bit. -/
theorem encodeDecodedWordIsWord : Obligations.EncodeDecodedWordIsWord := by
  intro set w i h
  cases set with
  | a32 =>
    rw [decode_a32_bytesOfWord] at h
    exact encode_of_decodeA32 h
  | t32 =>
    cases hwide : isT32Wide (w.extractLsb' 16 16) with
    | false => rw [decode_t32_of_not_wide hwide] at h; cases h
    | true =>
      rw [decode_t32_bytesOfWord hwide] at h
      exact encode_of_decodeT32 h

/-! ### The words that do not decode (R55) -/

theorem matchesRow_eq_false_iff {mask value w : Word} : matchesRow mask value w = false ↔ w &&& mask ≠ value :=
  beq_eq_false_iff_ne

/-- `1111` in bits 31:28 is no condition (R57). -/
theorem decodeA32_of_top_ones {w : Word} (h : w.extractLsb' 28 4 = 0b1111) :
    decodeA32 w = .error (.notInScopeA32 w) := by
  have hnone : Cond.ofBits 0b1111 = none := rfl
  simp only [decodeA32, h, hnone]

theorem decodeA32_of_no_row {w : Word} (hmrs : w &&& 0x0FB002F0 ≠ 0x01000200) (hmsr : w &&& 0x0FB002F0 ≠ 0x01200200) :
    decodeA32 w = .error (.notInScopeA32 w) := by
  unfold decodeA32
  cases Cond.ofBits (w.extractLsb' 28 4) with
  | none => rfl
  | some cond =>
    simp only [matchesRow_eq_false_iff.mpr hmrs, matchesRow_eq_false_iff.mpr hmsr, Bool.false_eq_true, if_false]

theorem decodeT32_of_no_row {w : Word} (hmrs : w &&& 0xFFE0D020 ≠ 0xF3E08020) (hmsr : w &&& 0xFFE0D020 ≠ 0xF3808020) :
    decodeT32 w = .error (.notInScopeT32 w) := by
  simp only [decodeT32, matchesRow_eq_false_iff.mpr hmrs, matchesRow_eq_false_iff.mpr hmsr, Bool.false_eq_true, if_false]

/-! ### The register argument (R41 to R44, R54) -/

/-- A register's code has the `R` bit of the SPSR copies exactly when it is one (R41). -/
theorem encodeBankedArg_r_eq_one_iff (reg : BankedReg) : (encodeBankedArg reg).r = 1 ↔ Machine.isSpsr reg = true := by
  cases reg <;> decide

/-- Settles O1: the closed form and the tables code by code, the `R` bit by the code of each register. -/
theorem argumentDecodeEqualsTables : Obligations.ArgumentDecodeEqualsTables := by
  refine ⟨fun c => ?_, fun c reg hreg => ?_⟩
  · obtain ⟨r, m⟩ := c
    revert r m
    decide
  · rw [← Machine.encodeBankedArg_of_decode hreg]
    exact encodeBankedArg_r_eq_one_iff reg

/-- Settles O2: the codes of the registers are read off, and the 16 odd values of `SYSm` looked up. -/
theorem argumentCodeRegularities : Obligations.ArgumentCodeRegularities := by
  refine ⟨?modes, rfl, rfl, ?odd⟩
  case modes => decide
  case odd => decide

/-- The codes that name no register: six with `R` = 0, and with `R` = 1 all but the seven of the SPSR copies (R54). -/
theorem decodeBankedArg_eq_none_iff (c : ArgCode) :
    decodeBankedArg c = none ↔
      (c.r = 0 ∧ c.sysm ∈ [0b00111, 0b01111, 0b11000, 0b11001, 0b11010, 0b11011]) ∨
      (c.r = 1 ∧ c.sysm ∉ [0b01110, 0b10000, 0b10010, 0b10100, 0b10110, 0b11100, 0b11110]) := by
  obtain ⟨r, m⟩ := c
  revert r m
  decide

end Sys2Proof

namespace Sys2Proof.Machine

/-! ### A step on a word that is none of the two instructions (R53, R55) -/

/-- A step on four bytes at `pc` that do not decode is refused with what was read. -/
theorem step_of_undecoded {s : State} {set : ISet} {bytes : List Byte} {what : DecodeError}
    (haligned : pcAligned s = true) (hset : s.iset = set) (hbytes : readFour s s.pc = some bytes)
    (hdecode : decode set bytes = .error what) : step s = .refused (.notInScope what) :=
  step_of_decode_error (fetch_eq_ok haligned hbytes) (hset ▸ hdecode)

/-- Settles O7: the four bytes are fetched, and none of the three kinds of word decodes. -/
theorem outOfScopeWordsAreRefused : Obligations.OutOfScopeWordsAreRefused := by
  intro s haligned
  refine ⟨fun w hset hbytes hw => ?a32, fun w hset hbytes hwide hmrs hmsr => ?t32Wide,
    fun w hset hbytes hnarrow => ?t16⟩
  case a32 =>
    refine step_of_undecoded haligned hset hbytes ((decode_a32_bytesOfWord w).trans ?_)
    rcases hw with htop | ⟨hmrs, hmsr⟩
    · exact decodeA32_of_top_ones htop
    · exact decodeA32_of_no_row hmrs hmsr
  case t32Wide =>
    exact step_of_undecoded haligned hset hbytes
      ((decode_t32_bytesOfWord hwide).trans (decodeT32_of_no_row hmrs hmsr))
  case t16 => exact step_of_undecoded haligned hset hbytes (decode_t32_of_not_wide hnarrow)

/-! ### The checks before the access, in the order of R75 -/

theorem exec_of_failed_condition {i : Instr} {s : State} (h : formPasses i.form s = false) :
    exec i s = .next s.advance := by
  rw [exec_eq_bankedTransfer]
  simp only [bankedTransfer, (checkBankedAccess_eq_skip_iff i.form i.argument s).mpr h]

theorem exec_of_unpredictable {i : Instr} {s : State} {why : Reason}
    (h : checkBankedAccess i.form i.argument s = .unpredictable why) : exec i s = .fault (.unpredictable why) := by
  rw [exec_eq_bankedTransfer]
  simp only [bankedTransfer, h, endUnpredictable]

section Checks

variable {f : Form} {s : State} (c : ArgCode)

theorem checkBankedAccess_of_wrong_shouldBe (hpass : formPasses f s = true) (hsb : f.shouldBeOk = false) :
    checkBankedAccess f c s = .unpredictable .shouldBeBits := by
  simp [checkBankedAccess, hpass, hsb]

theorem checkBankedAccess_of_badGpr (hpass : formPasses f s = true) (hsb : f.shouldBeOk = true)
    (hgpr : badGpr f s.params = true) : checkBankedAccess f c s = .unpredictable .badGpr := by
  simp [checkBankedAccess, hpass, hsb, hgpr]

theorem checkBankedAccess_of_user (hpass : formPasses f s = true) (hsb : f.shouldBeOk = true)
    (hgpr : badGpr f s.params = false) (hmode : s.mode = .user) :
    checkBankedAccess f c s = .unpredictable .userMode := by
  simp [checkBankedAccess, hpass, hsb, hgpr, hmode]

theorem checkBankedAccess_of_accessValid {c : ArgCode} {why : Reason} (hpass : formPasses f s = true)
    (hsb : f.shouldBeOk = true) (hgpr : badGpr f s.params = false) (hmode : s.mode ≠ .user)
    (hvalid : accessValid c s = some why) : checkBankedAccess f c s = .unpredictable why := by
  simp [checkBankedAccess, hpass, hsb, hgpr, hmode, hvalid]

end Checks

/-! ### The condition (R57) -/

/-- Settles O17: the table is the definition's, and a failed condition skips every instruction before any other check. -/
theorem failedConditionOnlyAdvances : Obligations.FailedConditionOnlyAdvances := by
  refine ⟨fun s => ?table, fun f s hset => ?t32Passes, fun s cond hfail => ⟨?mrsA1, ?msrA1⟩,
    fun f s hfail => ⟨fun reg => ?_, fun arg => ?_⟩⟩
  case table => simp [conditionPassed]
  case t32Passes =>
    cases f with
    | mrsA1 | msrA1 => cases hset
    | mrsT1 | msrT1 => rfl
  case mrsA1 => exact fun rd arg hi lo => exec_of_failed_condition hfail
  case msrA1 => exact fun rn arg sbo sbz => exec_of_failed_condition hfail
  · exact exec_of_failed_condition (by rwa [form_ofBanked])
  · exact exec_of_failed_condition hfail

/-! ### The argument rows (R58) -/

/-- The argument row of a code is what step 2 of the decode makes of the word row with that code. -/
theorem resolve_ofWord (f : Form) (c : ArgCode) : (Instr.ofWord f c).resolve = Instr.ofArgument f c := by
  rw [Instr.resolve, form_ofWord, argument_ofWord]

/-- Settles O12: step 2 of the decode does not change what an instruction does. -/
theorem argumentRowsMeanWhatWordsMean : Obligations.ArgumentRowsMeanWhatWordsMean := by
  intro f c s
  rw [← resolve_ofWord]
  exact exec_resolve (Instr.ofWord f c) s

/-! ### The codes that name no register (R54) -/

/-- The validity functions refuse a code that names no register as `BadSYSm` in every state. -/
theorem accessValid_of_no_register {c : ArgCode} (hc : decodeBankedArg c = none) (s : State) :
    accessValid c s = some .badSysm := by
  obtain ⟨r, m⟩ := c
  rcases (decodeBankedArg_eq_none_iff _).mp hc with ⟨rfl, hm⟩ | ⟨rfl, hm⟩
  · simp only [List.mem_cons, List.not_mem_nil, or_false] at hm
    rcases hm with rfl | rfl | rfl | rfl | rfl | rfl <;> rfl
  · simp only [List.mem_cons, List.not_mem_nil, or_false, not_or, ← BitVec.toNat_inj, BitVec.reduceToNat] at hm
    simp only [accessValid, if_true, spsrAccessValid]
    split
    case h_8 => rfl
    all_goals omega

/-- Every check of a code that names no register, once the condition passes, ends the instruction; the reason is
`BadSYSm` where the fields and the mode are right. -/
theorem checkBankedAccess_of_no_register {f : Form} {c : ArgCode} {s : State} (hc : decodeBankedArg c = none)
    (hpass : formPasses f s = true) :
    ∃ why, checkBankedAccess f c s = .unpredictable why ∧
      (f.shouldBeOk = true → badGpr f s.params = false → s.mode ≠ .user → why = .badSysm) := by
  cases hsb : f.shouldBeOk with
  | false => exact ⟨_, checkBankedAccess_of_wrong_shouldBe c hpass hsb, nofun⟩
  | true =>
    cases hgpr : badGpr f s.params with
    | true => exact ⟨_, checkBankedAccess_of_badGpr c hpass hsb hgpr, nofun⟩
    | false =>
      by_cases hmode : s.mode = .user
      · exact ⟨_, checkBankedAccess_of_user c hpass hsb hgpr hmode, fun _ _ hne => absurd hmode hne⟩
      · exact ⟨_, checkBankedAccess_of_accessValid hpass hsb hgpr hmode (accessValid_of_no_register hc s),
          fun _ _ _ => rfl⟩

/-- Settles O27: the codes by table, and one check for the word row and for `argConstrainedUnpredictable`. -/
theorem unpredictableCodesStop : Obligations.UnpredictableCodesStop := by
  intro c
  refine ⟨decodeBankedArg_eq_none_iff c, fun f s hc hpass => ?_⟩
  obtain ⟨why, hcheck, hwhy⟩ := checkBankedAccess_of_no_register hc hpass
  refine ⟨why, exec_of_unpredictable ?_, exec_of_unpredictable hcheck, hwhy⟩
  rwa [form_ofWord, argument_ofWord]

/-! ### Wrong fields (R50, R52) -/

theorem badGpr_of_gpr_eq_fifteen {f : Form} (p : Params) (h : f.gpr = 15) : badGpr f p = true := by
  simp [badGpr, h]

theorem badGpr_of_older_reading {f : Form} {p : Params} (hset : f.iset = .t32) (hgpr : f.gpr = 13)
    (hp : p.t32R13Unpredictable = true) : badGpr f p = true := by
  simp [badGpr, hset, hgpr, hp]

/-- Settles O28: the should-be bits are the second check, the register number the third. -/
theorem wrongFieldsAreUnpredictable : Obligations.WrongFieldsAreUnpredictable := by
  intro i s hpass
  refine ⟨fun hsb => ?shouldBe, fun hsb h15 => ?fifteen, fun hsb hset h13 hp => ?thirteen⟩
  case shouldBe => exact exec_of_unpredictable (checkBankedAccess_of_wrong_shouldBe _ hpass hsb)
  case fifteen =>
    exact exec_of_unpredictable (checkBankedAccess_of_badGpr _ hpass hsb (badGpr_of_gpr_eq_fifteen _ h15))
  case thirteen =>
    exact exec_of_unpredictable (checkBankedAccess_of_badGpr _ hpass hsb (badGpr_of_older_reading hset h13 hp))

end Sys2Proof.Machine

/-! SUPPORT. Proofs of the family 40_access_checks: the validity functions and the matrix agree (R60 to R75), what that
gives for each mode and for the trap, which runs are safe (R76), and that no run reaches a protected register (R70). -/

namespace Sys2Proof.Machine

/-! ### The premises on the modes (R21, R29) -/

theorem State.modeOk_iff (s : State) :
    s.modeOk = true ↔
      (s.mode = .hyp → s.params.haveEl2 = true ∧ s.secure = false) ∧
      (s.mode = .monitor → s.params.haveEl3 = true ∧ s.params.el3UsesAarch32 = true ∧ s.secure = true) ∧
      (s.params.haveEl3 = true ∨ s.secure = s.params.secureWhenNoEl3) := by
  simp only [State.modeOk, Bool.and_eq_true, Bool.or_eq_true, bne_iff_ne, beq_iff_eq, Bool.not_eq_true', and_assoc,
    ne_eq, ← imp_iff_not_or]

theorem Mode.ne_user_of_isEl1Mode {m : Mode} (h : m.isEl1Mode = true) : m ≠ .user := by
  rintro rfl
  cases h

theorem Mode.mem_el1Modes_iff (m : Mode) :
    m ∈ [Mode.fiq, .irq, .supervisor, .abort, .undefined, .system] ↔ m ≠ .user ∧ m ≠ .hyp ∧ m ≠ .monitor := by
  cases m <;> decide

/-! ### What the validity functions answer, register by register (R72, R73) -/

theorem accessValid_of_isMonitorReg {reg : BankedReg} (h : isMonitorReg reg = true) (s : State) :
    accessValid (encodeBankedArg reg) s = monitorArm s := by
  cases reg with
  | sp_mon | lr_mon | spsr_mon => rfl
  | _ => cases h

/-- Of the Hyp registers, `ELR_hyp` has an arm of its own (the Note of R65). -/
theorem accessValid_of_isHypReg {reg : BankedReg} (h : isHypReg reg = true) (s : State) :
    accessValid (encodeBankedArg reg) s = if reg = .elr_hyp then elrHypArm s else hypArm s := by
  cases reg with
  | sp_hyp | spsr_hyp | elr_hyp => rfl
  | _ => cases h

/-- Every other register is out of reach exactly where it is a current mode register (R60, R64 to R68). -/
theorem accessValid_of_ordinary {reg : BankedReg} {s : State} (hmon : isMonitorReg reg = false)
    (hhyp : isHypReg reg = false) (hmode : s.mode ≠ .user) :
    accessValid (encodeBankedArg reg) s =
      if .banked reg ∈ currentModeRegisters s.mode then some .currentModeRegister else none := by
  obtain ⟨bank, pc, mode, secure, n, z, c, v, iset, imem, params, draws⟩ := s
  cases reg with
  | sp_mon | lr_mon | spsr_mon => cases hmon
  | sp_hyp | spsr_hyp | elr_hyp => cases hhyp
  | _ =>
    cases mode with
    | user => exact absurd rfl hmode
    | _ => rfl

theorem monitorArm_eq_none_iff (s : State) :
    monitorArm s = none ↔ s.params.haveEl3 = true ∧ s.secure = true ∧ s.mode ≠ .monitor := by
  unfold monitorArm
  split_ifs <;> simp [*]

/-- Both arms of the Hyp registers let an access through from Hyp and Monitor mode at most. -/
theorem mode_of_hypReg_valid {reg : BankedReg} {s : State} (h : isHypReg reg = true)
    (hvalid : accessValid (encodeBankedArg reg) s = none) : s.mode = .hyp ∨ s.mode = .monitor := by
  rw [accessValid_of_isHypReg h] at hvalid
  by_contra hnot
  obtain ⟨hnotHyp, hnotMon⟩ := not_or.mp hnot
  simp only [elrHypArm, hypArm, hnotHyp, hnotMon, or_self, if_false] at hvalid
  split_ifs at hvalid

/-! ### The checks from the validity function on (R75 steps 5 to 8) -/

/-- Steps 1 to 4 of R75 let an instruction through. -/
def EarlierChecksPass (f : Form) (s : State) : Prop :=
  formPasses f s = true ∧ f.shouldBeOk = true ∧ badGpr f s.params = false ∧ s.mode ≠ .user

/-- What steps 5 to 8 of R75 decide about a register. -/
def accessDecision (s : State) (reg : BankedReg) : Access :=
  match accessValid (encodeBankedArg reg) s with
  | some why => .unpredictable why
  | none => if isMonitorReg reg && !s.params.el3UsesAarch32 then .trapToEl3 else .proceed reg

theorem accessDecision_of_invalid {s : State} {reg : BankedReg} {why : Reason}
    (h : accessValid (encodeBankedArg reg) s = some why) : accessDecision s reg = .unpredictable why := by
  simp only [accessDecision, h]

theorem accessDecision_of_valid {s : State} {reg : BankedReg} (h : accessValid (encodeBankedArg reg) s = none) :
    accessDecision s reg =
      if isMonitorReg reg && !s.params.el3UsesAarch32 then .trapToEl3 else .proceed reg := by
  simp only [accessDecision, h]

section Checks

variable {f : Form} {c : ArgCode} {s : State} {reg : BankedReg}

theorem checkBankedAccess_eq_accessDecision (hreg : decodeBankedArg c = some reg) (h : EarlierChecksPass f s) :
    checkBankedAccess f c s = accessDecision s reg := by
  obtain ⟨hpass, hsb, hgpr, hmode⟩ := h
  have hcode : encodeBankedArg reg = c := encodeBankedArg_of_decode hreg
  cases hvalid : accessValid c s with
  | some why =>
    rw [checkBankedAccess_of_accessValid hpass hsb hgpr hmode hvalid, accessDecision_of_invalid (hcode ▸ hvalid)]
  | none =>
    rw [accessDecision_of_valid (hcode ▸ hvalid)]
    simp [checkBankedAccess, hpass, hsb, hgpr, hmode, hvalid, hreg]

theorem checkBankedAccess_of_not_earlierChecksPass (c : ArgCode) (hpass : formPasses f s = true)
    (h : ¬ EarlierChecksPass f s) : ∃ why, checkBankedAccess f c s = .unpredictable why := by
  cases hsb : f.shouldBeOk with
  | false => exact ⟨_, checkBankedAccess_of_wrong_shouldBe c hpass hsb⟩
  | true =>
    cases hgpr : badGpr f s.params with
    | true => exact ⟨_, checkBankedAccess_of_badGpr c hpass hsb hgpr⟩
    | false =>
      have hmode : s.mode = .user := by
        by_contra hmode
        exact h ⟨hpass, hsb, hgpr, hmode⟩
      exact ⟨_, checkBankedAccess_of_user c hpass hsb hgpr hmode⟩

/-- The trap comes from steps 5 to 8 alone. -/
theorem checkBankedAccess_eq_trapToEl3_iff (hreg : decodeBankedArg c = some reg) :
    checkBankedAccess f c s = .trapToEl3 ↔ EarlierChecksPass f s ∧ accessDecision s reg = .trapToEl3 := by
  by_cases hearlier : EarlierChecksPass f s
  · rw [checkBankedAccess_eq_accessDecision hreg hearlier]
    exact (and_iff_right hearlier).symm
  · refine iff_of_false (fun htrap => ?_) (fun h => hearlier h.1)
    cases hpass : formPasses f s with
    | false => rw [(checkBankedAccess_eq_skip_iff f c s).mpr hpass] at htrap; cases htrap
    | true =>
      obtain ⟨why, hwhy⟩ := checkBankedAccess_of_not_earlierChecksPass c hpass hearlier
      rw [hwhy] at htrap
      cases htrap

end Checks

/-! ### From the check to the outcome of the instruction -/

theorem exec_of_trapToEl3 {i : Instr} {s : State} (h : checkBankedAccess i.form i.argument s = .trapToEl3) :
    exec i s = .fault (.trapToEl3 s) := by
  rw [exec_eq_bankedTransfer]
  simp only [bankedTransfer, h, takeTrapToEl3]

/-- A check that proceeds leads to the transfer (R80, R90). -/
theorem exec_of_proceed {i : Instr} {s : State} {reg : BankedReg}
    (h : checkBankedAccess i.form i.argument s = .proceed reg) : exec i s = performTransfer i.form reg s := by
  rw [exec_eq_bankedTransfer]
  simp only [bankedTransfer, h]

theorem exec_next_of_proceed {i : Instr} {s : State} {reg : BankedReg}
    (h : checkBankedAccess i.form i.argument s = .proceed reg) : ∃ t, exec i s = .next t := by
  simp only [exec_eq_bankedTransfer]
  exact (bankedTransfer_exists_next_iff i.form i.argument s).mpr (.inr ⟨reg, h⟩)

/-- The outcomes of an instruction, each with the check it comes from. -/
theorem exec_check_cases (i : Instr) (s : State) :
    (∃ t, exec i s = .next t) ∨
    (checkBankedAccess i.form i.argument s = .trapToEl3 ∧ exec i s = .fault (.trapToEl3 s)) ∨
    ∃ why, checkBankedAccess i.form i.argument s = .unpredictable why ∧ exec i s = .fault (.unpredictable why) := by
  cases hc : checkBankedAccess i.form i.argument s with
  | skip => exact .inl ⟨_, exec_of_failed_condition ((checkBankedAccess_eq_skip_iff _ _ _).mp hc)⟩
  | proceed reg => exact .inl (exec_next_of_proceed hc)
  | trapToEl3 => exact .inr (.inl ⟨rfl, exec_of_trapToEl3 hc⟩)
  | unpredictable why => exact .inr (.inr ⟨why, rfl, exec_of_unpredictable hc⟩)

theorem exec_eq_unpredictable_iff {i : Instr} {s : State} {why : Reason} :
    exec i s = .fault (.unpredictable why) ↔ checkBankedAccess i.form i.argument s = .unpredictable why := by
  refine ⟨fun h => ?_, exec_of_unpredictable⟩
  rcases exec_check_cases i s with ⟨t, ht⟩ | ⟨-, ht⟩ | ⟨w, hc, ht⟩ <;> cases h.symm.trans ht
  exact hc

theorem exec_eq_trapToEl3_iff {i : Instr} {s t : State} :
    exec i s = .fault (.trapToEl3 t) ↔ checkBankedAccess i.form i.argument s = .trapToEl3 ∧ t = s := by
  refine ⟨fun h => ?_, ?_⟩
  · rcases exec_check_cases i s with ⟨u, hu⟩ | ⟨hc, hu⟩ | ⟨w, -, hu⟩ <;> cases h.symm.trans hu
    exact ⟨hc, rfl⟩
  · rintro ⟨hc, rfl⟩
    exact exec_of_trapToEl3 hc

/-! ### The protected registers (R70) -/

theorem protectedReg_eq_false_iff (s : State) (reg : BankedReg) :
    protectedReg s reg = false ↔
      (isMonitorReg reg = true → s.secure = true) ∧ (isHypReg reg = true → s.mode = .hyp ∨ s.mode = .monitor) := by
  simp only [protectedReg, Bool.or_eq_false_iff, Bool.and_eq_false_imp, Bool.and_eq_true, bne_iff_ne,
    bne_eq_false_iff_eq, Bool.not_eq_false', and_imp, ne_eq, or_iff_not_imp_left]

theorem protectedReg_congr {s t : State} (hmode : t.mode = s.mode) (hsecure : t.secure = s.secure) :
    protectedReg t = protectedReg s := by
  funext reg
  simp only [protectedReg, hmode, hsecure]

/-- The validity functions give no access to a protected register. -/
theorem not_protectedReg_of_accessValid {s : State} {reg : BankedReg}
    (h : accessValid (encodeBankedArg reg) s = none) : protectedReg s reg = false := by
  refine (protectedReg_eq_false_iff s reg).mpr ⟨fun hmon => ?_, fun hhyp => mode_of_hypReg_valid hhyp h⟩
  rw [accessValid_of_isMonitorReg hmon] at h
  obtain ⟨-, hsecure, -⟩ := (monitorArm_eq_none_iff s).mp h
  exact hsecure

theorem not_protectedReg_of_proceed {f : Form} {c : ArgCode} {s : State} {reg : BankedReg}
    (h : checkBankedAccess f c s = .proceed reg) : protectedReg s reg = false := by
  obtain ⟨-, -, -, -, hvalid, hreg, -⟩ := (checkBankedAccess_eq_proceed_iff f c s reg).mp h
  exact not_protectedReg_of_accessValid ((encodeBankedArg_of_decode hreg).symm ▸ hvalid)

/-- A banked register that a register number reaches is the mode's SP or LR copy, or one of `R8` to `R12` (R18). -/
theorem curBank_banked_cases {m : Mode} {i : GprNum} {reg : BankedReg} (h : curBank m i = some (.banked reg)) :
    reg = currentSp m ∨ reg = currentLr m ∨ (isMonitorReg reg = false ∧ isHypReg reg = false) := by
  unfold curBank at h
  split at h
  case h_14 => cases h; exact .inl rfl
  case h_15 => cases h; exact .inr (.inl rfl)
  case h_9 | h_10 | h_11 | h_12 | h_13 =>
    cases h
    exact .inr (.inr (by split <;> exact ⟨rfl, rfl⟩))
  all_goals cases h

theorem mode_of_currentSp (m : Mode) :
    (isMonitorReg (currentSp m) = true → m = .monitor) ∧ (isHypReg (currentSp m) = true → m = .hyp) := by
  cases m <;> decide

theorem mode_of_currentLr (m : Mode) :
    (isMonitorReg (currentLr m) = true → m = .monitor) ∧ (isHypReg (currentLr m) = true → m = .hyp) := by
  cases m <;> decide

/-- A register number reaches a Monitor register from Monitor mode only, and a Hyp register from Hyp mode only. -/
theorem mode_of_curBank {m : Mode} {i : GprNum} {reg : BankedReg} (h : curBank m i = some (.banked reg)) :
    (isMonitorReg reg = true → m = .monitor) ∧ (isHypReg reg = true → m = .hyp) := by
  rcases curBank_banked_cases h with rfl | rfl | ⟨hmon, hhyp⟩
  · exact mode_of_currentSp m
  · exact mode_of_currentLr m
  · simp [hmon, hhyp]

/-- A general-purpose register operand is no protected register: Monitor mode is Secure (R21). -/
theorem not_protectedReg_of_curBank {s : State} {i : GprNum} {reg : BankedReg} (hok : s.modeOk = true)
    (h : curBank s.mode i = some (.banked reg)) : protectedReg s reg = false := by
  obtain ⟨-, hmonitor, -⟩ := s.modeOk_iff.mp hok
  obtain ⟨hmon, hhyp⟩ := mode_of_curBank h
  refine (protectedReg_eq_false_iff s reg).mpr ⟨fun hm => ?_, fun hh => .inl (hhyp hh)⟩
  obtain ⟨-, -, hsecure⟩ := hmonitor (hmon hm)
  exact hsecure

/-! ### Two states that agree outside a set of registers -/

/-- `q` is none of the registers `p` protects. -/
def Unprotected (p : BankedReg → Bool) (q : Reg) : Prop := ∀ reg, q = .banked reg → p reg = false

theorem unprotected_banked_iff {p : BankedReg → Bool} {reg : BankedReg} :
    Unprotected p (.banked reg) ↔ p reg = false :=
  ⟨fun h => h reg rfl, fun h r hr => by cases hr; exact h⟩

/-- Two states that differ in the cells of the registers `p` protects at most. -/
def AgreeOutside (p : BankedReg → Bool) (s₁ s₂ : State) : Prop :=
  s₂ = { s₁ with bank := s₂.bank } ∧ ∀ q : Reg, Unprotected p q → s₁.cell q = s₂.cell q

section Agree

variable {p : BankedReg → Bool} {s₁ s₂ : State}

theorem AgreeOutside.cell_eq (h : AgreeOutside p s₁ s₂) {q : Reg} (hq : Unprotected p q) : s₁.cell q = s₂.cell q :=
  h.2 q hq

/-- Everything but the bank is shared. -/
theorem AgreeOutside.exists_bank (h : AgreeOutside p s₁ s₂) : ∃ bank, s₂ = { s₁ with bank := bank } := ⟨_, h.1⟩

theorem AgreeOutside.advance (h : AgreeOutside p s₁ s₂) : AgreeOutside p s₁.advance s₂.advance := by
  refine ⟨?_, fun q hq => by simpa using h.cell_eq hq⟩
  obtain ⟨bank, rfl⟩ := h.exists_bank
  rfl

theorem AgreeOutside.setCell (h : AgreeOutside p s₁ s₂) (r : Reg) (v : Word) :
    AgreeOutside p (s₁.setCell r v) (s₂.setCell r v) := by
  refine ⟨?_, fun q hq => by simp only [State.cell_setCell, h.cell_eq hq]⟩
  obtain ⟨bank, rfl⟩ := h.exists_bank
  rfl

/-- The same value written to the same banked register: the free bits of an SPSR are the same draw (R94). -/
theorem AgreeOutside.writeBanked (h : AgreeOutside p s₁ s₂) (reg : BankedReg) (v : Word) :
    AgreeOutside p (s₁.writeBanked reg v) (s₂.writeBanked reg v) := by
  obtain ⟨bank, hbank⟩ := h.exists_bank
  have hparams : s₂.params = s₁.params := by rw [hbank]
  have hdraws : s₂.draws = s₁.draws := by rw [hbank]
  refine ⟨?_, fun q hq => ?_⟩
  · subst hbank
    simp only [State.writeBanked]
    split <;> rfl
  · by_cases hreg : q = .banked reg
    · subst hreg
      simp only [State.writeBanked_cell_self, hparams, hdraws]
    · simp only [State.writeBanked_cell_of_ne _ v hreg, h.cell_eq hq]

theorem AgreeOutside.mrsResult (h : AgreeOutside p s₁ s₂) (gpr : Reg) {reg : BankedReg} (hreg : p reg = false) :
    AgreeOutside p (mrsResult s₁ gpr reg) (mrsResult s₂ gpr reg) := by
  unfold Machine.mrsResult
  rw [h.cell_eq (unprotected_banked_iff.mpr hreg)]
  exact (h.setCell gpr _).advance

theorem AgreeOutside.msrResult (h : AgreeOutside p s₁ s₂) {gpr : Reg} (reg : BankedReg) (hgpr : Unprotected p gpr) :
    AgreeOutside p (msrResult s₁ gpr reg) (msrResult s₂ gpr reg) := by
  unfold Machine.msrResult
  rw [h.cell_eq hgpr]
  exact (h.writeBanked reg _).advance

/-! ### A step of two states that agree -/

/-- The check looks at no register. -/
theorem checkBankedAccess_bank (f : Form) (c : ArgCode) (s : State) (bank : Vector Word 41) :
    checkBankedAccess f c { s with bank := bank } = checkBankedAccess f c s := rfl

theorem fetch_bank (s : State) (bank : Vector Word 41) : fetch { s with bank := bank } = fetch s := rfl

/-- An instruction that completes does so in both states, and they still agree: it reads no protected register. -/
theorem AgreeOutside.exec (h : AgreeOutside (protectedReg s₁) s₁ s₂) (hok : s₁.modeOk = true) {i : Instr} {t₁ : State}
    (hexec : exec i s₁ = .next t₁) : ∃ t₂, exec i s₂ = .next t₂ ∧ AgreeOutside (protectedReg s₁) t₁ t₂ := by
  obtain ⟨bank, hbank⟩ := h.exists_bank
  have hcheck : checkBankedAccess i.form i.argument s₂ = checkBankedAccess i.form i.argument s₁ := by
    rw [hbank, checkBankedAccess_bank]
  have hmode : s₂.mode = s₁.mode := by rw [hbank]
  rw [exec_eq_bankedTransfer] at hexec
  rcases bankedTransfer_next hexec with ⟨hskip, rfl⟩ | ⟨reg, gpr, hproceed, hgpr, hresult⟩
  · have hskip₂ := hcheck.trans ((checkBankedAccess_eq_skip_iff i.form i.argument s₁).mpr hskip)
    exact ⟨_, exec_of_failed_condition ((checkBankedAccess_eq_skip_iff _ _ _).mp hskip₂), h.advance⟩
  · have hexec₂ := exec_of_proceed (hcheck.trans hproceed)
    rw [performTransfer_of_curBank reg (hmode.symm ▸ hgpr)] at hexec₂
    have hgprFree : Unprotected (protectedReg s₁) gpr := fun r hr => not_protectedReg_of_curBank hok (hr ▸ hgpr)
    rcases hresult with ⟨hdir, rfl⟩ | ⟨hdir, rfl⟩
    · rw [hdir] at hexec₂
      exact ⟨_, hexec₂, h.mrsResult gpr (not_protectedReg_of_proceed hproceed)⟩
    · rw [hdir] at hexec₂
      exact ⟨_, hexec₂, h.msrResult reg hgprFree⟩

end Agree

/-! ### What a step and a run keep of the protected registers (R70, R107) -/

/-- A completed instruction leaves the protected registers as they were. -/
theorem exec_keeps_protectedReg {i : Instr} {s t : State} (hok : s.modeOk = true) (hexec : exec i s = .next t)
    {reg : BankedReg} (hreg : protectedReg s reg = true) : t.cell (.banked reg) = s.cell (.banked reg) := by
  rw [exec_eq_bankedTransfer] at hexec
  rcases bankedTransfer_next hexec with ⟨-, rfl⟩ | ⟨r, gpr, hproceed, hgpr, ⟨-, rfl⟩ | ⟨-, rfl⟩⟩
  · exact State.advance_cell s _
  · have hne : Reg.banked reg ≠ gpr := by
      rintro rfl
      rw [not_protectedReg_of_curBank hok hgpr] at hreg
      cases hreg
    simp only [mrsResult, State.advance_cell, State.cell_setCell_of_ne s _ hne]
  · have hne : Reg.banked reg ≠ .banked r := by
      rintro ⟨rfl⟩
      rw [not_protectedReg_of_proceed hproceed] at hreg
      cases hreg
    simp only [msrResult, State.advance_cell, State.writeBanked_cell_of_ne s _ hne]

theorem step_keeps_protectedReg {s t : State} (hok : s.modeOk = true) (hstep : step s = .next t)
    {reg : BankedReg} (hreg : protectedReg s reg = true) : t.cell (.banked reg) = s.cell (.banked reg) := by
  obtain ⟨bytes, i, -, -, hexec⟩ := step_next hstep
  exact exec_keeps_protectedReg hok hexec hreg

/-- Both states fetch and decode the same instruction, so they step together. -/
theorem agreeOutside_step {s₁ s₂ t₁ : State} (h : AgreeOutside (protectedReg s₁) s₁ s₂) (hok : s₁.modeOk = true)
    (hstep : step s₁ = .next t₁) : ∃ t₂, step s₂ = .next t₂ ∧ AgreeOutside (protectedReg s₁) t₁ t₂ := by
  obtain ⟨bytes, i, hfetch, hdecode, hexec⟩ := step_next hstep
  obtain ⟨t₂, hexec₂, hagree⟩ := h.exec hok hexec
  obtain ⟨bank, rfl⟩ := h.exists_bank
  exact ⟨t₂, (step_of_decode_ok ((fetch_bank s₁ bank).trans hfetch) hdecode).trans hexec₂, hagree⟩

/-- A step keeps the mode and the Security state, and with them the premise and the set of protected registers. -/
theorem step_keeps_protection {s t : State} (hstep : step s = .next t) :
    t.modeOk = s.modeOk ∧ protectedReg t = protectedReg s := by
  obtain ⟨-, hmode, hsecure, -, -, -, -, -, -, hparams⟩ := step_next_frame hstep
  exact ⟨State.modeOk_congr hmode hsecure hparams, protectedReg_congr hmode hsecure⟩

/-- Each step of a run keeps the protected registers and the agreement, so the whole run does. -/
theorem run_isolates_protectedReg (n : Nat) {s₁ s₂ t₁ : State} (hok : s₁.modeOk = true)
    (hagree : AgreeOutside (protectedReg s₁) s₁ s₂) (hrun : Host.Core.run Sys2Proof.core n s₁ = .next t₁) :
    (∀ reg, protectedReg s₁ reg = true → t₁.cell (.banked reg) = s₁.cell (.banked reg)) ∧
    ∃ t₂ : State, Host.Core.run Sys2Proof.core n s₂ = .next t₂ ∧ AgreeOutside (protectedReg s₁) t₁ t₂ := by
  induction n generalizing s₁ s₂ with
  | zero =>
    cases hrun
    exact ⟨fun _ _ => rfl, s₂, run_zero s₂, hagree⟩
  | succ n ih =>
    obtain ⟨u₁, hstep, hrest⟩ := run_succ_eq_next_iff.mp hrun
    obtain ⟨u₂, hstep₂, hagreeU⟩ := agreeOutside_step hagree hok hstep
    obtain ⟨hokU, hprotected⟩ := step_keeps_protection hstep
    rw [← hprotected] at hagreeU
    obtain ⟨hkeeps, t₂, hrest₂, hagreeT⟩ := ih (hokU.trans hok) hagreeU hrest
    rw [hprotected] at hkeeps hagreeT
    refine ⟨fun reg hreg => ?_, t₂, run_succ_eq_next_iff.mpr ⟨u₂, hstep₂, hrest₂⟩, hagreeT⟩
    exact (hkeeps reg hreg).trans (step_keeps_protectedReg hok hstep hreg)

/-- Settles O38: the premises on the second state are agreement outside the protected registers, which a run keeps. -/
theorem protectedRegistersAreIsolated : Obligations.ProtectedRegistersAreIsolated :=
  fun n _ _ _ hok hbank hcells hrun => run_isolates_protectedReg n hok ⟨hbank, hcells⟩ hrun

/-! ### The restrictions by Security state (R61 to R63) -/

/-- An access the validity functions refuse ends the instruction, whatever its fields are. -/
theorem exec_unpredictable_of_invalid {i : Instr} {s : State} {reg : BankedReg} {why : Reason}
    (hreg : decodeBankedArg i.argument = some reg) (hpass : formPasses i.form s = true)
    (hinvalid : accessValid (encodeBankedArg reg) s = some why) : ∃ why, exec i s = .fault (.unpredictable why) := by
  by_cases hearlier : EarlierChecksPass i.form s
  · have hcheck := (checkBankedAccess_eq_accessDecision hreg hearlier).trans (accessDecision_of_invalid hinvalid)
    exact ⟨why, exec_of_unpredictable hcheck⟩
  · obtain ⟨w, hcheck⟩ := checkBankedAccess_of_not_earlierChecksPass i.argument hpass hearlier
    exact ⟨w, exec_of_unpredictable hcheck⟩

/-- A protected register is refused. -/
theorem exists_accessValid_of_protectedReg {s : State} {reg : BankedReg} (h : protectedReg s reg = true) :
    ∃ why, accessValid (encodeBankedArg reg) s = some why := by
  refine Option.ne_none_iff_exists'.mp fun hvalid => ?_
  rw [not_protectedReg_of_accessValid hvalid] at h
  cases h

theorem protectedReg_of_hypReg {s : State} {reg : BankedReg} (hmode : s.mode.isEl1Mode = true)
    (hhyp : isHypReg reg = true) : protectedReg s reg = true := by
  have hnotHyp : s.mode ≠ .hyp := fun h => by rw [h] at hmode; cases hmode
  have hnotMonitor : s.mode ≠ .monitor := fun h => by rw [h] at hmode; cases hmode
  simp [protectedReg, hhyp, hnotHyp, hnotMonitor]

theorem protectedReg_of_monitorReg {s : State} {reg : BankedReg} (hsecure : s.secure = false)
    (hmon : isMonitorReg reg = true) : protectedReg s reg = true := by
  simp [protectedReg, hmon, hsecure]

/-- Settles O23: in all three clauses the register is a protected one, which the validity functions refuse. -/
theorem securityStateRestrictions : Obligations.SecurityStateRestrictions := by
  intro i s reg hreg hpass
  have hrefused : protectedReg s reg = true → ∃ why, exec i s = .fault (.unpredictable why) := fun hprot => by
    obtain ⟨why, hinvalid⟩ := exists_accessValid_of_protectedReg hprot
    exact exec_unpredictable_of_invalid hreg hpass hinvalid
  exact ⟨fun hmode _ hhyp => hrefused (protectedReg_of_hypReg hmode hhyp),
    fun _ hsecure hmon => hrefused (protectedReg_of_monitorReg hsecure hmon),
    fun hmode _ hhyp => hrefused (protectedReg_of_hypReg hmode hhyp)⟩

/-! ### User mode (R60) -/

/-- Settles O29: User mode is the fourth check, after the condition, the should-be bits and the register number. -/
theorem userModeTransfersNothing : Obligations.UserModeTransfersNothing := by
  intro i s hmode
  refine ⟨exec_of_failed_condition, fun hpass => ?_⟩
  by_cases hfields : i.form.shouldBeOk = true ∧ badGpr i.form s.params = false
  · exact ⟨.userMode, exec_of_unpredictable (checkBankedAccess_of_user _ hpass hfields.1 hfields.2 hmode),
      fun _ _ => rfl⟩
  · obtain ⟨why, hcheck⟩ :=
      checkBankedAccess_of_not_earlierChecksPass i.argument hpass fun ⟨_, _, _, hnotUser⟩ => hnotUser hmode
    exact ⟨why, exec_of_unpredictable hcheck, fun hsb hgpr => absurd ⟨hsb, hgpr⟩ hfields⟩

/-! ### The trap to EL3 (R69, R101) -/

theorem isMonitorReg_iff_mem (reg : BankedReg) : isMonitorReg reg = true ↔ reg ∈ [.sp_mon, .lr_mon, .spsr_mon] := by
  cases reg <;> decide

/-- The trap takes a Monitor register that the validity functions let through, under an AArch64 EL3. -/
theorem accessDecision_eq_trapToEl3_iff (s : State) (reg : BankedReg) :
    accessDecision s reg = .trapToEl3 ↔
      isMonitorReg reg = true ∧ s.params.el3UsesAarch32 = false ∧ monitorArm s = none := by
  cases hvalid : accessValid (encodeBankedArg reg) s with
  | some why =>
    rw [accessDecision_of_invalid hvalid]
    refine iff_of_false (nofun) (fun ⟨hmon, _, harm⟩ => ?_)
    rw [accessValid_of_isMonitorReg hmon, harm] at hvalid
    cases hvalid
  | none =>
    rw [accessDecision_of_valid hvalid, ite_eq_left_iff]
    have harm : isMonitorReg reg = true → monitorArm s = none := fun hmon => by
      rwa [accessValid_of_isMonitorReg hmon] at hvalid
    simp only [reduceCtorEq, imp_false, not_not, Bool.and_eq_true, Bool.not_eq_true']
    exact ⟨fun ⟨hmon, ha32⟩ => ⟨hmon, ha32, harm hmon⟩, fun ⟨hmon, ha32, _⟩ => ⟨hmon, ha32⟩⟩

/-- A Secure state with legal modes is not in Hyp mode (R21). -/
theorem State.mode_ne_hyp_of_secure {s : State} (hok : s.modeOk = true) (hsecure : s.secure = true) :
    s.mode ≠ .hyp := by
  intro hmode
  obtain ⟨hhyp, -⟩ := s.modeOk_iff.mp hok
  rw [(hhyp hmode).2] at hsecure
  cases hsecure

/-- Settles O30: the Monitor registers' arm passes in a Secure mode other than Monitor, and with legal modes and User
mode gone by an earlier check those are the six. -/
theorem trapToEl3Exactly : Obligations.TrapToEl3Exactly := by
  intro i s reg hok hreg
  refine ⟨?_, fun t ht => (exec_eq_trapToEl3_iff.mp ht).2⟩
  have htrap : (∃ t, exec i s = .fault (.trapToEl3 t)) ↔
      EarlierChecksPass i.form s ∧ accessDecision s reg = .trapToEl3 := by
    simp only [exec_eq_trapToEl3_iff, exists_eq_right, checkBankedAccess_eq_trapToEl3_iff hreg]
  rw [htrap, accessDecision_eq_trapToEl3_iff, monitorArm_eq_none_iff, isMonitorReg_iff_mem, Mode.mem_el1Modes_iff]
  constructor
  · rintro ⟨⟨hpass, hsb, hgpr, hnotUser⟩, hmon, haarch32, hel3, hsecure, hnotMonitor⟩
    have hnotHyp := s.mode_ne_hyp_of_secure hok hsecure
    exact ⟨hel3, haarch32, hsecure, ⟨hnotUser, hnotHyp, hnotMonitor⟩, hmon, hpass, hsb, hgpr⟩
  · rintro ⟨hel3, haarch32, hsecure, ⟨hnotUser, -, hnotMonitor⟩, hmon, hpass, hsb, hgpr⟩
    exact ⟨⟨hpass, hsb, hgpr, hnotUser⟩, hmon, haarch32, hel3, hsecure, hnotMonitor⟩

/-! ### The matrix, row by row (R74) -/

theorem matrixCell_user (reg : BankedReg) : matrixCell reg .user = none := rfl

/-- The column of a Monitor register's mode reads `cur`, Hyp mode's `ns`, and the six others `S`. -/
theorem matrixCell_of_isMonitorReg {reg : BankedReg} {m : Mode} (h : isMonitorReg reg = true) (hmode : m ≠ .user) :
    matrixCell reg m = some (if m = .monitor then .cur else if m = .hyp then .ns else .sec) := by
  cases reg with
  | sp_mon | lr_mon | spsr_mon =>
    cases m with
    | user => exact absurd rfl hmode
    | _ => rfl
  | _ => cases h

/-- A Hyp register is performed from Monitor mode, and `ELR_hyp` from Hyp mode also. -/
theorem matrixCell_of_isHypReg {reg : BankedReg} {m : Mode} (h : isHypReg reg = true) (hmode : m ≠ .user) :
    matrixCell reg m =
      some (if m = .monitor ∨ (m = .hyp ∧ reg = .elr_hyp) then .ok else if m = .hyp then .cur else .hyp) := by
  cases reg with
  | sp_hyp | spsr_hyp | elr_hyp =>
    cases m with
    | user => exact absurd rfl hmode
    | _ => rfl
  | _ => cases h

/-- Every other register's row reads `cur` exactly where it is a current mode register. -/
theorem matrixCell_of_ordinary {reg : BankedReg} {m : Mode} (hmon : isMonitorReg reg = false)
    (hhyp : isHypReg reg = false) (hmode : m ≠ .user) :
    matrixCell reg m = some (if .banked reg ∈ currentModeRegisters m then .cur else .ok) := by
  cases reg with
  | sp_mon | lr_mon | spsr_mon => cases hmon
  | sp_hyp | spsr_hyp | elr_hyp => cases hhyp
  | _ =>
    cases m with
    | user => exact absurd rfl hmode
    | _ => rfl

theorem matrixAccess_of_user {s : State} (reg : BankedReg) (hmode : s.mode = .user) :
    matrixAccess s reg = .unpredictable .userMode := by
  simp only [matrixAccess, hmode, matrixCell_user]

/-! ### The machine and the matrix agree (R72 to R74) -/

section Matrix

variable {s : State} {reg : BankedReg}

theorem isHypReg_eq_false_of_isMonitorReg (h : isMonitorReg reg = true) : isHypReg reg = false := by
  cases reg with
  | sp_mon | lr_mon | spsr_mon => rfl
  | _ => cases h

theorem isMonitorReg_eq_false_of_isHypReg (h : isHypReg reg = true) : isMonitorReg reg = false := by
  cases reg with
  | sp_hyp | spsr_hyp | elr_hyp => rfl
  | _ => cases h

theorem accessDecision_eq_matrixAccess_of_isMonitorReg (h : isMonitorReg reg = true) (hok : s.modeOk = true)
    (hmode : s.mode ≠ .user) : accessDecision s reg = matrixAccess s reg := by
  obtain ⟨hhyp, hmonitor, -⟩ := s.modeOk_iff.mp hok
  simp only [accessDecision, matrixAccess, accessValid_of_isMonitorReg h, matrixCell_of_isMonitorReg h hmode,
    monitorArm, implemented, isHypReg_eq_false_of_isMonitorReg h, h]
  by_cases hm : s.mode = .monitor
  · obtain ⟨hel3, -, hsecure⟩ := hmonitor hm
    simp [hm, hel3, hsecure]
  · by_cases hh : s.mode = .hyp
    · cases hel3 : s.params.haveEl3 <;> simp [hh, (hhyp hh).2]
    · cases hel3 : s.params.haveEl3 with
      | false => simp
      | true => cases s.secure <;> cases s.params.el3UsesAarch32 <;> simp [hm, hh]

theorem accessDecision_eq_matrixAccess_of_isHypReg (h : isHypReg reg = true) (hmode : s.mode ≠ .user) :
    accessDecision s reg = matrixAccess s reg := by
  simp only [accessDecision, matrixAccess, accessValid_of_isHypReg h, matrixCell_of_isHypReg h hmode, elrHypArm, hypArm,
    implemented, isMonitorReg_eq_false_of_isHypReg h, h]
  cases hel2 : s.params.haveEl2 with
  | false => simp
  | true =>
    by_cases hm : s.mode = .monitor
    · simp [hm]
    · by_cases hh : s.mode = .hyp <;> by_cases helr : reg = .elr_hyp <;> simp [hm, hh, helr]

theorem accessDecision_eq_matrixAccess_of_ordinary (hmon : isMonitorReg reg = false) (hhyp : isHypReg reg = false)
    (hmode : s.mode ≠ .user) : accessDecision s reg = matrixAccess s reg := by
  simp only [accessDecision, matrixAccess, accessValid_of_ordinary hmon hhyp hmode,
    matrixCell_of_ordinary hmon hhyp hmode, implemented, hmon, hhyp]
  by_cases hcur : .banked reg ∈ currentModeRegisters s.mode <;> simp [hcur]

/-- From a mode other than User the checks say what the matrix says, for each of the three kinds of register. -/
theorem accessDecision_eq_matrixAccess (reg : BankedReg) (hok : s.modeOk = true) (hmode : s.mode ≠ .user) :
    accessDecision s reg = matrixAccess s reg := by
  cases hmon : isMonitorReg reg with
  | true => exact accessDecision_eq_matrixAccess_of_isMonitorReg hmon hok hmode
  | false =>
    cases hhyp : isHypReg reg with
    | true => exact accessDecision_eq_matrixAccess_of_isHypReg hhyp hmode
    | false => exact accessDecision_eq_matrixAccess_of_ordinary hmon hhyp hmode

theorem checkBankedAccess_eq_matrixAccess {f : Form} {c : ArgCode} (hok : s.modeOk = true)
    (hreg : decodeBankedArg c = some reg) (hpass : formPasses f s = true) (hsb : f.shouldBeOk = true)
    (hgpr : badGpr f s.params = false) : checkBankedAccess f c s = matrixAccess s reg := by
  by_cases hmode : s.mode = .user
  · rw [checkBankedAccess_of_user c hpass hsb hgpr hmode, matrixAccess_of_user reg hmode]
  · rw [checkBankedAccess_eq_accessDecision hreg ⟨hpass, hsb, hgpr, hmode⟩,
      accessDecision_eq_matrixAccess reg hok hmode]

end Matrix

/-- Settles O25: the outcome of the instruction is that of its check, which is the matrix's. -/
theorem accessFollowsMatrix : Obligations.AccessFollowsMatrix := by
  intro i s reg hok hreg hpass hsb hgpr
  have hcheck := checkBankedAccess_eq_matrixAccess hok hreg hpass hsb hgpr
  cases hm : matrixAccess s reg with
  | proceed r =>
    rw [hm] at hcheck
    obtain ⟨-, -, -, -, -, hr, -⟩ := (checkBankedAccess_eq_proceed_iff _ _ _ _).mp hcheck
    exact ⟨Option.some.inj (hr.symm.trans hreg), exec_next_of_proceed hcheck⟩
  | trapToEl3 => exact exec_of_trapToEl3 (hcheck.trans hm)
  | unpredictable why => exact exec_of_unpredictable (hcheck.trans hm)
  | skip =>
    have hfail := (checkBankedAccess_eq_skip_iff _ _ _).mp (hcheck.trans hm)
    rw [hpass] at hfail
    cases hfail

/-! ### The lists by mode (R64 to R68) -/

/-- The matrix bars an implemented register in a cell `cur`, `hyp` or `ns`, and in a cell `S` in Non-secure state. -/
theorem matrixAccess_unpredictable_iff {s : State} {reg : BankedReg} (hmode : s.mode ≠ .user)
    (himplemented : implemented s.params reg = true) :
    (∃ why, matrixAccess s reg = .unpredictable why) ↔
      (s.secure = false ∧ matrixCell reg s.mode = some .sec) ∨
      matrixCell reg s.mode ∈ [some .cur, some .hyp, some .ns] := by
  have hcell : ∃ cell, matrixCell reg s.mode = some cell := by
    cases hmon : isMonitorReg reg with
    | true => exact ⟨_, matrixCell_of_isMonitorReg hmon hmode⟩
    | false =>
      cases hhyp : isHypReg reg with
      | true => exact ⟨_, matrixCell_of_isHypReg hhyp hmode⟩
      | false => exact ⟨_, matrixCell_of_ordinary hmon hhyp hmode⟩
  obtain ⟨cell, hcell⟩ := hcell
  simp only [matrixAccess, hcell, himplemented]
  cases cell with
  | sec => cases s.secure <;> cases s.params.el3UsesAarch32 <;> simp
  | _ => simp

/-- Only the columns of the six EL1 modes depend on the Security state. -/
theorem matrixCell_ne_sec {m : Mode} (h : m.isEl1Mode = false) (reg : BankedReg) : matrixCell reg m ≠ some .sec := by
  cases m with
  | user => rintro ⟨⟩
  | hyp | monitor => cases reg <;> decide
  | _ => cases h

theorem matrixCell_sec_iff {m : Mode} (h : m.isEl1Mode = true) (reg : BankedReg) :
    matrixCell reg m = some .sec ↔ reg ∈ [.sp_mon, .lr_mon, .spsr_mon] := by
  cases m with
  | user | hyp | monitor => cases h
  | _ => cases reg <;> decide

/-- An instruction whose other checks pass is Unpredictable exactly where the matrix bars its register. -/
theorem exec_unpredictable_iff {i : Instr} {s : State} {reg : BankedReg} (hok : s.modeOk = true)
    (hreg : decodeBankedArg i.argument = some reg) (himplemented : implemented s.params reg = true)
    (hpass : formPasses i.form s = true) (hsb : i.form.shouldBeOk = true) (hgpr : badGpr i.form s.params = false)
    (hmode : s.mode ≠ .user) :
    (∃ why, exec i s = .fault (.unpredictable why)) ↔
      (s.secure = false ∧ matrixCell reg s.mode = some .sec) ∨
      matrixCell reg s.mode ∈ [some .cur, some .hyp, some .ns] := by
  simp only [exec_eq_unpredictable_iff, checkBankedAccess_eq_matrixAccess hok hreg hpass hsb hgpr]
  exact matrixAccess_unpredictable_iff hmode himplemented

/-- Settles O24: the barred cells of each column of the matrix, read off against the list of its mode. -/
theorem inaccessibleRegistersByMode : Obligations.InaccessibleRegistersByMode := by
  intro i s reg hok hreg himplemented hpass hsb hgpr
  have hbarred := exec_unpredictable_iff hok hreg himplemented hpass hsb hgpr
  refine ⟨fun hmode => ?monitor, fun hmode => ?hyp, fun hmode => ?el1⟩
  case monitor =>
    rw [hbarred (by rw [hmode]; decide), hmode, or_iff_right (fun h => matrixCell_ne_sec rfl reg h.2)]
    cases reg <;> decide
  case hyp =>
    rw [hbarred (by rw [hmode]; decide), hmode, or_iff_right (fun h => matrixCell_ne_sec rfl reg h.2)]
    cases reg <;> decide
  case el1 =>
    rw [hbarred (Mode.ne_user_of_isEl1Mode hmode), matrixCell_sec_iff hmode]
    refine or_congr_right ?_
    cases hm : s.mode with
    | user | hyp | monitor => rw [hm] at hmode; cases hmode
    | _ => cases reg <;> decide

/-- Settles O26, a column at a time. -/
theorem matrixColumnCounts : Obligations.MatrixColumnCounts := by
  refine ⟨fun m => ?performed, fun m => ?bySecurityState⟩
  case performed => cases m <;> rfl
  case bySecurityState => cases m <;> rfl

/-! ### Safe runs (R76, R96, R125) -/

/-- An instruction completes: its condition fails, or its fields are right and the matrix performs its register. -/
def CompletesIn (s : State) (i : Instr) : Prop :=
  formPasses i.form s = false ∨
    i.form.shouldBeOk = true ∧ badGpr i.form s.params = false ∧
      ∃ reg, decodeBankedArg i.argument = some reg ∧ performedFrom s reg = true

theorem performedFrom_iff (s : State) (reg : BankedReg) :
    performedFrom s reg = true ↔ matrixAccess s reg = .proceed reg :=
  beq_iff_eq

theorem exec_exists_next_iff {s : State} (hok : s.modeOk = true) (i : Instr) :
    (∃ t, exec i s = .next t) ↔ CompletesIn s i := by
  simp only [exec_eq_bankedTransfer]
  rw [bankedTransfer_exists_next_iff]
  cases hpass : formPasses i.form s with
  | false => exact iff_of_true (.inl rfl) (.inl hpass)
  | true =>
    rw [CompletesIn, hpass]
    refine or_congr_right ⟨?_, ?_⟩
    · rintro ⟨reg, hproceed⟩
      obtain ⟨-, hsb, hgpr, -, -, hreg, -⟩ := (checkBankedAccess_eq_proceed_iff _ _ _ _).mp hproceed
      have hcheck := checkBankedAccess_eq_matrixAccess hok hreg hpass hsb hgpr
      exact ⟨hsb, hgpr, reg, hreg, (performedFrom_iff s reg).mpr (hcheck.symm.trans hproceed)⟩
    · rintro ⟨hsb, hgpr, reg, hreg, hperformed⟩
      have hcheck := checkBankedAccess_eq_matrixAccess hok hreg hpass hsb hgpr
      exact ⟨reg, hcheck.trans ((performedFrom_iff s reg).mp hperformed)⟩

/-- The word at `a`, read in the control state of `s`, is an instruction that completes. -/
def SafeWordAt (s : State) (a : Word) : Prop :=
  ∃ bytes i, fetch { s with pc := a } = .ok bytes ∧ decode s.iset bytes = .ok i ∧ CompletesIn s i

theorem step_exists_next_iff_safeWordAt {s : State} (hok : s.modeOk = true) :
    (∃ t, step s = .next t) ↔ SafeWordAt s s.pc := by
  rw [step_exists_next_iff]
  simp only [exec_exists_next_iff hok]
  rfl

/-- A step changes the bank, the count of free values and `pc`, and nothing else (R83, R93). -/
theorem step_next_eq {s t : State} (h : step s = .next t) :
    t = { s with bank := t.bank, draws := t.draws, pc := s.pc + 4 } := by
  obtain ⟨hpc, hmode, hsecure, hN, hZ, hC, hV, hiset, himem, hparams⟩ := step_next_frame h
  rw [← hpc, ← hmode, ← hsecure, ← hN, ← hZ, ← hC, ← hV, ← hiset, ← himem, ← hparams]

/-- What a word does is read in fields that no step changes. -/
theorem safeWordAt_of_step {s t : State} (h : step s = .next t) (a : Word) : SafeWordAt t a ↔ SafeWordAt s a := by
  rw [step_next_eq h]
  rfl

theorem add_ofNat_four_mul_succ (a : Word) (k : Nat) :
    a + BitVec.ofNat 32 (4 * (k + 1)) = a + 4 + BitVec.ofNat 32 (4 * k) := by
  rw [Nat.mul_succ, Nat.add_comm, BitVec.ofNat_add, ← BitVec.add_assoc]
  rfl

theorem safeFor_succ_iff (n : Nat) (s : State) :
    safeFor (n + 1) s = true ↔ ∃ u, step s = .next u ∧ safeFor n u = true := by
  cases hstep : step s <;> simp [safeFor, hstep]

/-- `safeFor` says whether the run reaches a next state. -/
theorem safeFor_iff_run (n : Nat) (s : State) :
    safeFor n s = true ↔ ∃ t, Host.Core.run Sys2Proof.core n s = .next t := by
  induction n generalizing s with
  | zero => exact iff_of_true rfl ⟨s, run_zero s⟩
  | succ n ih =>
    rw [safeFor_succ_iff]
    constructor
    · rintro ⟨u, hstep, hsafe⟩
      obtain ⟨t, hrun⟩ := (ih u).mp hsafe
      exact ⟨t, run_succ_eq_next_iff.mpr ⟨u, hstep, hrun⟩⟩
    · rintro ⟨t, hrun⟩
      obtain ⟨u, hstep, hrest⟩ := run_succ_eq_next_iff.mp hrun
      exact ⟨u, hstep, (ih u).mpr ⟨t, hrest⟩⟩

/-- A run is safe exactly when each of its words is, read at the start. -/
theorem safeFor_iff_safeWordAt (n : Nat) {s : State} (hok : s.modeOk = true) :
    safeFor n s = true ↔ ∀ k < n, SafeWordAt s (s.pc + BitVec.ofNat 32 (4 * k)) := by
  induction n generalizing s with
  | zero => exact iff_of_true rfl (fun k hk => absurd hk (Nat.not_lt_zero k))
  | succ n ih =>
    have hrest : ∀ u : State, step s = .next u →
        (safeFor n u = true ↔ ∀ k < n, SafeWordAt s (s.pc + BitVec.ofNat 32 (4 * (k + 1)))) := by
      intro u hstep
      obtain ⟨hpc, -⟩ := step_next_frame hstep
      have hoku : u.modeOk = true := (step_keeps_protection hstep).1.trans hok
      simp only [ih hoku, safeWordAt_of_step hstep, hpc, add_ofNat_four_mul_succ]
    rw [safeFor_succ_iff, Nat.forall_lt_succ_left, Nat.mul_zero, BitVec.add_zero,
      ← step_exists_next_iff_safeWordAt hok]
    constructor
    · rintro ⟨u, hstep, hsafe⟩
      exact ⟨⟨u, hstep⟩, (hrest u hstep).mp hsafe⟩
    · rintro ⟨⟨u, hstep⟩, hwords⟩
      exact ⟨u, hstep, (hrest u hstep).mpr hwords⟩

/-- Settles O39: the run against `safeFor`, and `safeFor` against the words at the start. -/
theorem safeRunsAreDecidedAtStart : Obligations.SafeRunsAreDecidedAtStart :=
  fun n s hok => ⟨safeFor_iff_run n s, safeFor_iff_safeWordAt n hok⟩

end Sys2Proof.Machine

/-! SUPPORT. Proofs of the family 41_mrs_banked: a performed access copies the register it names (R80, R81, R91), what
`MRS` leaves unchanged (R83), no cell is copied to itself (R82, R92), and `MRS` twice is `MRS` once (R82). -/

namespace Sys2Proof.Machine

/-! ### The operand register (R18, R52) -/

theorem gpr_ne_fifteen_of_curBank {m : Mode} {i : GprNum} {q : Reg} (h : curBank m i = some q) : i ≠ 15 := by
  rintro rfl
  cases h

theorem badGpr_eq_false_iff (f : Form) (p : Params) :
    badGpr f p = false ↔ f.gpr ≠ 15 ∧ (f.iset = .t32 → f.gpr = 13 → p.t32R13Unpredictable = false) := by
  simp [badGpr]

/-- A register that a register number reaches is one of the current mode registers. -/
theorem mem_currentModeRegisters_of_curBank {m : Mode} {i : GprNum} {q : Reg} (h : curBank m i = some q) :
    q ∈ currentModeRegisters m := by
  have numbers : ∀ j : GprNum, j ≠ 15 → j ∈ ([0, 1, 2, 3, 4, 5, 6, 7, 8, 9, 10, 11, 12, 13, 14] : List GprNum) := by
    decide
  have hmem := List.mem_filterMap.mpr ⟨i, numbers i (gpr_ne_fifteen_of_curBank h), h⟩
  exact List.mem_append_left _ (List.mem_append_left _ hmem)

/-- No register number reaches an SPSR copy or `ELR_hyp` (R18). -/
theorem not_spsr_and_ne_elrHyp_of_curBank {m : Mode} {i : GprNum} {reg : BankedReg}
    (h : curBank m i = some (.banked reg)) : isSpsr reg = false ∧ reg ≠ .elr_hyp := by
  unfold curBank at h
  split at h
  case h_9 | h_10 | h_11 | h_12 | h_13 => cases h; split <;> exact ⟨rfl, nofun⟩
  case h_14 | h_15 => cases h; cases m <;> exact ⟨rfl, nofun⟩
  all_goals cases h

/-! ### No cell is copied to itself (R82 case 3, R92 case 3) -/

/-- The validity functions refuse the register that `Rd` or `Rn` is: `ELR_hyp`, the one current mode register they let
through, has no register number. -/
theorem accessValid_ne_none_of_curBank {s : State} {i : GprNum} {reg : BankedReg} (hmode : s.mode ≠ .user)
    (h : curBank s.mode i = some (.banked reg)) : accessValid (encodeBankedArg reg) s ≠ none := by
  obtain ⟨hmonitor, hhypMode⟩ := mode_of_curBank h
  cases hmon : isMonitorReg reg with
  | true =>
    rw [accessValid_of_isMonitorReg hmon, ne_eq, monitorArm_eq_none_iff]
    exact fun ⟨_, _, hnotMonitor⟩ => hnotMonitor (hmonitor hmon)
  | false =>
    cases hhyp : isHypReg reg with
    | true =>
      obtain ⟨-, hnotElr⟩ := not_spsr_and_ne_elrHyp_of_curBank h
      rw [accessValid_of_isHypReg hhyp, if_neg hnotElr, hypArm, if_pos (hhypMode hhyp)]
      split_ifs <;> exact nofun
    | false =>
      rw [accessValid_of_ordinary hmon hhyp hmode, if_pos (mem_currentModeRegisters_of_curBank h)]
      exact nofun

/-- Settles O20: the validity function has let the named register through, and refuses the one of `Rd` or `Rn`. -/
theorem sourceIsNeverDestination : Obligations.SourceIsNeverDestination := by
  rintro f c s reg gpr hproceed hgpr rfl
  obtain ⟨-, -, -, hmode, hvalid, hreg, -⟩ := (checkBankedAccess_eq_proceed_iff f c s reg).mp hproceed
  exact accessValid_ne_none_of_curBank hmode hgpr ((encodeBankedArg_of_decode hreg).symm ▸ hvalid)

/-! ### From the matrix to the check (R72 to R74) -/

theorem mode_ne_user_of_performedFrom {s : State} {reg : BankedReg} (h : performedFrom s reg = true) :
    s.mode ≠ .user := fun hmode => by
  rw [performedFrom_iff, matrixAccess_of_user reg hmode] at h
  cases h

/-- The matrix performs a Monitor register in a cell `S`, in Secure state under an AArch32 EL3. -/
theorem monitorArm_of_performedFrom {s : State} {reg : BankedReg} (hmon : isMonitorReg reg = true)
    (h : performedFrom s reg = true) : monitorArm s = none ∧ s.params.el3UsesAarch32 = true := by
  have hcell := matrixCell_of_isMonitorReg hmon (mode_ne_user_of_performedFrom h)
  have himplemented : implemented s.params reg = s.params.haveEl3 := by
    simp [implemented, isHypReg_eq_false_of_isMonitorReg hmon, hmon]
  rw [performedFrom_iff, matrixAccess, hcell, himplemented] at h
  rw [monitorArm_eq_none_iff]
  by_cases hmode : s.mode = .monitor
  · simp only [if_pos hmode] at h
    split_ifs at h
  · by_cases hhyp : s.mode = .hyp
    · simp only [if_neg hmode, if_pos hhyp] at h
      split_ifs at h
    · simp only [if_neg hmode, if_neg hhyp] at h
      split_ifs at h with hel3 hsecure haarch32
      exact ⟨⟨Bool.eq_true_of_not_eq_false hel3, Bool.eq_true_of_not_eq_false hsecure, hmode⟩, haarch32⟩

/-- Where the matrix performs an access the checks let it proceed, in states with illegal modes also (log 24). -/
theorem accessDecision_of_performedFrom {s : State} {reg : BankedReg} (h : performedFrom s reg = true) :
    accessDecision s reg = .proceed reg := by
  have hmode := mode_ne_user_of_performedFrom h
  cases hmon : isMonitorReg reg with
  | true =>
    obtain ⟨harm, haarch32⟩ := monitorArm_of_performedFrom hmon h
    rw [accessDecision_of_valid ((accessValid_of_isMonitorReg hmon s).trans harm), haarch32]
    simp
  | false =>
    rw [performedFrom_iff] at h
    cases hhyp : isHypReg reg with
    | true => exact (accessDecision_eq_matrixAccess_of_isHypReg hhyp hmode).trans h
    | false => exact (accessDecision_eq_matrixAccess_of_ordinary hmon hhyp hmode).trans h

theorem checkBankedAccess_of_performedFrom {f : Form} {c : ArgCode} {s : State} {reg : BankedReg}
    (hreg : decodeBankedArg c = some reg) (hpass : formPasses f s = true) (hsb : f.shouldBeOk = true)
    (hgpr : badGpr f s.params = false) (h : performedFrom s reg = true) : checkBankedAccess f c s = .proceed reg :=
  (checkBankedAccess_eq_accessDecision hreg ⟨hpass, hsb, hgpr, mode_ne_user_of_performedFrom h⟩).trans
    (accessDecision_of_performedFrom h)

/-! ### The two copies (R80, R81, R90, R91) -/

section Copies

variable {i : Instr} {s : State} {reg : BankedReg} {gpr : Reg}

theorem exec_mrs_of_proceed (hdir : i.form.direction = .mrs)
    (hproceed : checkBankedAccess i.form i.argument s = .proceed reg) (hgpr : curBank s.mode i.form.gpr = some gpr) :
    exec i s = .next (mrsResult s gpr reg) := by
  rw [exec_of_proceed hproceed, performTransfer_of_curBank reg hgpr, hdir]

theorem exec_msr_of_proceed (hdir : i.form.direction = .msr)
    (hproceed : checkBankedAccess i.form i.argument s = .proceed reg) (hgpr : curBank s.mode i.form.gpr = some gpr) :
    exec i s = .next (msrResult s gpr reg) := by
  rw [exec_of_proceed hproceed, performTransfer_of_curBank reg hgpr, hdir]

end Copies

/-- Settles O13: the encoded argument decodes to the register, and the should-be bits and `Rd` are right. -/
theorem mrsWordRowsCopyRegister : Obligations.MrsWordRowsCopyRegister := by
  intro s rd reg dst hdst hperformed
  have hcode := decodeBankedArg_encodeBankedArg reg
  have hfifteen := gpr_ne_fifteen_of_curBank hdst
  refine ⟨fun cond hpass => ?mrsA1, fun h13 => ?mrsT1⟩
  case mrsA1 =>
    have hgpr : badGpr (.mrsA1 cond rd 0 0) s.params = false := (badGpr_eq_false_iff _ _).mpr ⟨hfifteen, nofun⟩
    exact exec_mrs_of_proceed rfl (checkBankedAccess_of_performedFrom hcode hpass rfl hgpr hperformed) hdst
  case mrsT1 =>
    have hgpr : badGpr (.mrsT1 rd 0 0 0) s.params = false :=
      (badGpr_eq_false_iff _ _).mpr ⟨hfifteen, fun _ => h13⟩
    exact exec_mrs_of_proceed rfl (checkBankedAccess_of_performedFrom hcode rfl rfl hgpr hperformed) hdst

/-- Settles O15: the check of an argument row is that of its encoding and its register's code. -/
theorem argumentRowsCopyRegister : Obligations.ArgumentRowsCopyRegister := by
  intro s f reg gpr hpass hsb hbad hgpr hperformed
  have hproceed :
      checkBankedAccess (Instr.ofBanked f reg).form (Instr.ofBanked f reg).argument s = .proceed reg := by
    rw [form_ofBanked, argument_ofBanked]
    exact checkBankedAccess_of_performedFrom (decodeBankedArg_encodeBankedArg reg) hpass hsb hbad hperformed
  have hform := form_ofBanked f reg
  exact ⟨fun hdir => exec_mrs_of_proceed (hform.symm ▸ hdir) hproceed (hform.symm ▸ hgpr),
    fun hdir => exec_msr_of_proceed (hform.symm ▸ hdir) hproceed (hform.symm ▸ hgpr)⟩

/-! ### What `MRS` leaves unchanged (R83) -/

/-- An `MRS` that answers a next state has advanced past a failed condition, or copied a register to `Rd`. -/
theorem exec_mrs_next {i : Instr} {s t : State} (hdir : i.form.direction = .mrs) (h : exec i s = .next t) :
    (formPasses i.form s = false ∧ t = s.advance) ∨
    ∃ reg gpr, checkBankedAccess i.form i.argument s = .proceed reg ∧ curBank s.mode i.form.gpr = some gpr ∧
      t = mrsResult s gpr reg := by
  rw [exec_eq_bankedTransfer] at h
  rcases bankedTransfer_next h with hskip | ⟨reg, gpr, hproceed, hgpr, ⟨-, ht⟩ | ⟨hmsr, -⟩⟩
  · exact .inl hskip
  · exact .inr ⟨reg, gpr, hproceed, hgpr, ht⟩
  · cases hdir.symm.trans hmsr

theorem mrsResult_cell_of_ne {gpr q : Reg} (s : State) (reg : BankedReg) (h : q ≠ gpr) :
    (mrsResult s gpr reg).cell q = s.cell q := by
  rw [mrsResult, State.advance_cell, State.cell_setCell_of_ne s _ h]

theorem mrsResult_cell_gpr (s : State) (gpr : Reg) (reg : BankedReg) :
    (mrsResult s gpr reg).cell gpr = s.cell (.banked reg) := by
  rw [mrsResult, State.advance_cell, State.cell_setCell_self]

theorem exec_mrs_keeps_cell {i : Instr} {s t : State} (hdir : i.form.direction = .mrs) (h : exec i s = .next t)
    {q : Reg} (hq : curBank s.mode i.form.gpr ≠ some q) : t.cell q = s.cell q := by
  rcases exec_mrs_next hdir h with ⟨-, rfl⟩ | ⟨reg, gpr, -, hgpr, rfl⟩
  · exact State.advance_cell s q
  · refine mrsResult_cell_of_ne s reg ?_
    rintro rfl
    exact hq hgpr

theorem exec_mrs_keeps_draws {i : Instr} {s t : State} (hdir : i.form.direction = .mrs) (h : exec i s = .next t) :
    t.draws = s.draws := by
  rcases exec_mrs_next hdir h with ⟨-, rfl⟩ | ⟨reg, gpr, -, -, rfl⟩
  · exact State.advance_draws s
  · simp [mrsResult]

/-- Settles O18: `Rd` is no SPSR copy and not `ELR_hyp`, and the rest is the frame of every transfer. -/
theorem mrsFrame : Obligations.MrsFrame := by
  intro i s t hdir h
  obtain ⟨-, hmode, hsecure, hN, hZ, hC, hV, hiset, himem, hparams⟩ :=
    bankedTransfer_next_frame ((exec_eq_bankedTransfer i s).symm.trans h)
  refine ⟨fun q hq => exec_mrs_keeps_cell hdir h hq, fun reg hspsr => ?spsr, ?elrHyp, hmode, hsecure, hN, hZ, hC, hV,
    hiset, hparams, exec_mrs_keeps_draws hdir h, fun a => ?memory⟩
  case spsr =>
    refine exec_mrs_keeps_cell hdir h fun hgpr => ?_
    obtain ⟨hnotSpsr, -⟩ := not_spsr_and_ne_elrHyp_of_curBank hgpr
    rw [hspsr] at hnotSpsr
    cases hnotSpsr
  case elrHyp =>
    refine exec_mrs_keeps_cell hdir h fun hgpr => ?_
    obtain ⟨-, hne⟩ := not_spsr_and_ne_elrHyp_of_curBank hgpr
    exact hne rfl
  case memory => rw [State.readMem, himem, State.readMem]

/-! ### `MRS` twice in a row (R82 case 9) -/

theorem formPasses_advance (f : Form) (s : State) : formPasses f s.advance = formPasses f s := by
  cases f <;> rfl

/-- The check reads nothing that `MRS` writes. -/
theorem checkBankedAccess_mrsResult (f : Form) (c : ArgCode) (s : State) (gpr : Reg) (reg : BankedReg) :
    checkBankedAccess f c (mrsResult s gpr reg) = checkBankedAccess f c s := rfl

/-- A copy repeated changes no register: its source is not its destination, so it still holds the value copied. -/
theorem mrsResult_mrsResult_cell {s : State} {gpr : Reg} {reg : BankedReg} (hne : gpr ≠ .banked reg) (q : Reg) :
    (mrsResult (mrsResult s gpr reg) gpr reg).cell q = (mrsResult s gpr reg).cell q := by
  by_cases hq : q = gpr
  · rw [hq]
    calc (mrsResult (mrsResult s gpr reg) gpr reg).cell gpr
        = (mrsResult s gpr reg).cell (.banked reg) := mrsResult_cell_gpr _ gpr reg
      _ = s.cell (.banked reg) := mrsResult_cell_of_ne s reg hne.symm
      _ = (mrsResult s gpr reg).cell gpr := (mrsResult_cell_gpr s gpr reg).symm
  · exact mrsResult_cell_of_ne _ reg hq

/-- Settles O22: the checks decide the second time as the first. -/
theorem mrsTwiceIsMrsOnce : Obligations.MrsTwiceIsMrsOnce := by
  intro i s t hdir h
  rcases exec_mrs_next hdir h with ⟨hfail, rfl⟩ | ⟨reg, gpr, hproceed, hgpr, rfl⟩
  · exact ⟨_, exec_of_failed_condition ((formPasses_advance i.form s).trans hfail), State.advance_cell _⟩
  · have hproceed' := (checkBankedAccess_mrsResult i.form i.argument s gpr reg).trans hproceed
    have hne : gpr ≠ .banked reg := sourceIsNeverDestination i.form i.argument s reg gpr hproceed hgpr
    exact ⟨_, exec_mrs_of_proceed hdir hproceed' hgpr, mrsResult_mrsResult_cell hne⟩

end Sys2Proof.Machine

/-! SUPPORT. Proofs of the family 42_msr_banked: what a performed `MSR` copies (R90, R91), what a written register holds
(R94), what `MSR` leaves unchanged (R93), `MRS` after `MSR` (R92), and the runs of the two instructions (R96, R108). -/

namespace Sys2Proof.Machine

/-! ### `MSR` copies `Rn` to the register it names (R90, R91) -/

/-- Settles O14: the encoded argument decodes to the register, the should-be bits and `Rn` are right, and the write is
a plain one but for an SPSR copy that loses bits. -/
theorem msrWordRowsCopyRegister : Obligations.MsrWordRowsCopyRegister := by
  intro s rn reg src hsrc hperformed
  have hcode := decodeBankedArg_encodeBankedArg reg
  have hfifteen := gpr_ne_fifteen_of_curBank hsrc
  refine ⟨fun cond hpass => ?msrA1, fun h13 => ?msrT1, ?plainWrite⟩
  case msrA1 =>
    have hgpr : badGpr (.msrA1 cond rn 0b1111 0) s.params = false := (badGpr_eq_false_iff _ _).mpr ⟨hfifteen, nofun⟩
    exact exec_msr_of_proceed rfl (checkBankedAccess_of_performedFrom hcode hpass rfl hgpr hperformed) hsrc
  case msrT1 =>
    have hgpr : badGpr (.msrT1 rn 0 0 0) s.params = false :=
      (badGpr_eq_false_iff _ _).mpr ⟨hfifteen, fun _ => h13⟩
    exact exec_msr_of_proceed rfl (checkBankedAccess_of_performedFrom hcode rfl rfl hgpr hperformed) hsrc
  case plainWrite =>
    rintro (hnotSpsr | hkeep)
    · exact State.writeBanked_of_not_spsr s _ hnotSpsr
    · exact State.writeBanked_of_keep_all reg _ hkeep

/-! ### What a written register holds (R94) -/

section Written

variable (s : State) {reg : BankedReg} (v : Word)

theorem writeBanked_cell_of_not_spsr (h : isSpsr reg = false) : (s.writeBanked reg v).cell (.banked reg) = v := by
  rw [State.writeBanked_of_not_spsr s v h, State.cell_setCell_self]

theorem writeBanked_cell_and_keep (h : isSpsr reg = true) :
    (s.writeBanked reg v).cell (.banked reg) &&& s.params.spsrKeepMask = v &&& s.params.spsrKeepMask := by
  rw [State.writeBanked_cell_self, if_pos h, legalSpsr_and_keep]

end Written

/-- Settles O16: the equation of the write for each of the three premises. -/
theorem spsrWriteKeepsMaskedBits : Obligations.SpsrWriteKeepsMaskedBits := by
  intro s reg v
  refine ⟨writeBanked_cell_of_not_spsr s v, writeBanked_cell_and_keep s v, fun hkeep => ?_⟩
  rw [State.writeBanked_of_keep_all reg v hkeep, State.cell_setCell_self]

/-! ### What `MSR` leaves unchanged (R93) -/

/-- An `MSR` that answers a next state has advanced past a failed condition, or copied `Rn` to a register. -/
theorem exec_msr_next {i : Instr} {s t : State} (hdir : i.form.direction = .msr) (h : exec i s = .next t) :
    (formPasses i.form s = false ∧ t = s.advance) ∨
    ∃ reg gpr, checkBankedAccess i.form i.argument s = .proceed reg ∧ curBank s.mode i.form.gpr = some gpr ∧
      t = msrResult s gpr reg := by
  rw [exec_eq_bankedTransfer] at h
  rcases bankedTransfer_next h with hskip | ⟨reg, gpr, hproceed, hgpr, ⟨hmrs, -⟩ | ⟨-, ht⟩⟩
  · exact .inl hskip
  · cases hdir.symm.trans hmrs
  · exact .inr ⟨reg, gpr, hproceed, hgpr, ht⟩

theorem decodeBankedArg_of_proceed {f : Form} {c : ArgCode} {s : State} {reg : BankedReg}
    (h : checkBankedAccess f c s = .proceed reg) : decodeBankedArg c = some reg := by
  obtain ⟨-, -, -, -, -, hreg, -⟩ := (checkBankedAccess_eq_proceed_iff f c s reg).mp h
  exact hreg

theorem msrResult_cell_of_ne {q : Reg} {reg : BankedReg} (s : State) (gpr : Reg) (h : q ≠ .banked reg) :
    (msrResult s gpr reg).cell q = s.cell q := by
  rw [msrResult, State.advance_cell, State.writeBanked_cell_of_ne s _ h]

theorem exec_msr_keeps_cell {i : Instr} {s t : State} (hdir : i.form.direction = .msr) (h : exec i s = .next t)
    {q : Reg} (hq : (decodeBankedArg i.argument).map Reg.banked ≠ some q) : t.cell q = s.cell q := by
  rcases exec_msr_next hdir h with ⟨-, rfl⟩ | ⟨reg, gpr, hproceed, -, rfl⟩
  · exact State.advance_cell s q
  · refine msrResult_cell_of_ne s gpr ?_
    rintro rfl
    exact hq (congrArg (Option.map Reg.banked) (decodeBankedArg_of_proceed hproceed))

/-- No free value is drawn where every bit of an SPSR is kept (R94; log 11). -/
theorem exec_msr_keeps_draws {i : Instr} {s t : State} (hdir : i.form.direction = .msr) (h : exec i s = .next t)
    (hkeep : s.params.spsrKeepMask = BitVec.allOnes 32) : t.draws = s.draws := by
  rcases exec_msr_next hdir h with ⟨-, rfl⟩ | ⟨reg, gpr, -, -, rfl⟩
  · exact State.advance_draws s
  · rw [msrResult, State.writeBanked_of_keep_all reg _ hkeep, State.advance_draws, State.setCell_draws]

theorem map_banked_ne_some_low (r : Option BankedReg) (k : Fin 8) : r.map Reg.banked ≠ some (.low k) := by
  cases r <;> exact nofun

/-- Settles O19: the argument names no cell of `R0` to `R7`, and the rest is the frame of every transfer. -/
theorem msrFrame : Obligations.MsrFrame := by
  intro i s t hdir h
  obtain ⟨-, hmode, hsecure, hN, hZ, hC, hV, hiset, himem, hparams⟩ :=
    bankedTransfer_next_frame ((exec_eq_bankedTransfer i s).symm.trans h)
  refine ⟨fun q hq => exec_msr_keeps_cell hdir h hq,
    fun k => exec_msr_keeps_cell hdir h (map_banked_ne_some_low _ k), hmode, hsecure, hN, hZ, hC, hV, hiset, hparams,
    exec_msr_keeps_draws hdir h, fun a => ?memory⟩
  case memory => rw [State.readMem, himem, State.readMem]

/-! ### `MSR` and then `MRS` (R92 case 10) -/

/-- The check reads nothing that a write to a banked register changes. -/
theorem checkBankedAccess_msrResult (f : Form) (c : ArgCode) (s : State) (gpr : Reg) (reg : BankedReg) :
    checkBankedAccess f c (msrResult s gpr reg) = checkBankedAccess f c s := by
  rcases s.writeBanked_cases reg (s.cell gpr) with hwrite | ⟨-, -, hwrite⟩ <;> rw [msrResult, hwrite] <;> rfl

theorem msrResult_mode (s : State) (gpr : Reg) (reg : BankedReg) : (msrResult s gpr reg).mode = s.mode := by
  rw [msrResult, State.advance_mode, State.writeBanked_mode]

/-- Steps 4 to 8 of R75 do not look at the encoding, so what they let one instruction do they let another. -/
theorem checkBankedAccess_proceed_of_fields {f g : Form} {c : ArgCode} {s : State} {reg : BankedReg}
    (h : checkBankedAccess f c s = .proceed reg) (hpass : formPasses g s = true) (hsb : g.shouldBeOk = true)
    (hgpr : badGpr g s.params = false) : checkBankedAccess g c s = .proceed reg := by
  obtain ⟨-, -, -, hlater⟩ := (checkBankedAccess_eq_proceed_iff f c s reg).mp h
  exact (checkBankedAccess_eq_proceed_iff g c s reg).mpr ⟨hpass, hsb, hgpr, hlater⟩

/-- An `MSR` whose condition passes and that answers a next state has written the register its argument names. -/
theorem exec_msr_next_of_passes {i : Instr} {s t : State} {reg : BankedReg} {src : Reg}
    (hdir : i.form.direction = .msr) (hpass : formPasses i.form s = true)
    (hreg : decodeBankedArg i.argument = some reg) (hsrc : curBank s.mode i.form.gpr = some src)
    (h : exec i s = .next t) :
    checkBankedAccess i.form i.argument s = .proceed reg ∧ t = msrResult s src reg := by
  rcases exec_msr_next hdir h with ⟨hfail, -⟩ | ⟨r, gpr, hproceed, hgpr, ht⟩
  · rw [hpass] at hfail
    cases hfail
  · cases hreg.symm.trans (decodeBankedArg_of_proceed hproceed)
    cases hsrc.symm.trans hgpr
    exact ⟨hproceed, ht⟩

/-- Settles O21: the `MSR` changes nothing the check of the `MRS` reads, and the `MRS` copies what the write left. -/
theorem msrThenMrsReturnsValue : Obligations.MsrThenMrsReturnsValue := by
  intro f g c s t reg src dst hmsr hmrs hreg hpassf hpassg hsb hbad hsrc hdst hexec
  obtain ⟨hproceedf, rfl⟩ : checkBankedAccess f c s = .proceed reg ∧ t = msrResult s src reg := by
    simpa only [form_ofWord, argument_ofWord] using exec_msr_next_of_passes (i := .ofWord f c)
      (by rwa [form_ofWord]) (by rwa [form_ofWord]) (by rwa [argument_ofWord]) (by rwa [form_ofWord]) hexec
  have hproceed : checkBankedAccess g c s = .proceed reg :=
    checkBankedAccess_proceed_of_fields hproceedf hpassg hsb hbad
  have hne : dst ≠ .banked reg := sourceIsNeverDestination g c s reg dst hproceed hdst
  have hread : exec (.ofWord g c) (msrResult s src reg) = .next (mrsResult (msrResult s src reg) dst reg) :=
    exec_mrs_of_proceed (by rwa [form_ofWord])
      (by rwa [form_ofWord, argument_ofWord, checkBankedAccess_msrResult])
      (by rwa [form_ofWord, msrResult_mode])
  have hregister : (mrsResult (msrResult s src reg) dst reg).cell (.banked reg) =
      (s.writeBanked reg (s.cell src)).cell (.banked reg) := mrsResult_cell_of_ne _ reg hne.symm
  have hcopy : (mrsResult (msrResult s src reg) dst reg).cell dst =
      (s.writeBanked reg (s.cell src)).cell (.banked reg) := mrsResult_cell_gpr _ dst reg
  refine ⟨_, hread, fun hnotSpsr => ?ordinary, fun hspsr => ?spsr⟩
  case ordinary =>
    have hwritten := writeBanked_cell_of_not_spsr s (s.cell src) hnotSpsr
    exact ⟨hcopy.trans hwritten, hregister.trans hwritten⟩
  case spsr => rw [hcopy, writeBanked_cell_and_keep s _ hspsr]

/-! ### Runs are straight-line (R96, R108) -/

/-- A run changes the bank, the count of free values and `pc`, which moves by 4 a step, and nothing else. -/
theorem run_next_eq {n : Nat} {s t : State} (h : Host.Core.run Sys2Proof.core n s = .next t) :
    t = { s with bank := t.bank, draws := t.draws, pc := s.pc + BitVec.ofNat 32 (4 * n) } := by
  induction n generalizing s with
  | zero =>
    cases (run_zero s).symm.trans h
    rw [Nat.mul_zero, BitVec.add_zero]
  | succ n ih =>
    obtain ⟨u, hstep, hrest⟩ := run_succ_eq_next_iff.mp h
    rw [add_ofNat_four_mul_succ]
    have ht := ih hrest
    rw [step_next_eq hstep] at ht
    exact ht

/-- Settles O36: the fields are read off what a run changes. -/
theorem runIsStraightLine : Obligations.RunIsStraightLine := by
  intro n s t hrun
  rw [run_next_eq hrun]
  exact ⟨rfl, rfl, rfl, rfl, rfl, rfl, rfl, rfl, rfl, rfl⟩

end Sys2Proof.Machine

/-! SUPPORT. Proofs of the family 70_reset_and_hazards: the reset state meets the premises of a launch (R121), and it
holds what the log chooses, with no program in it (R120, R35). -/

namespace Sys2Proof.Machine

/-! ### A memory that defines nothing (R35) -/

/-- Where memory defines no address, no read has a value. -/
theorem readMem_of_imem_nil {s : State} (h : s.imem = []) (a : Word) : s.readMem a = none := by
  unfold State.readMem
  rw [h]
  rfl

/-- A step from an aligned `pc` with no program loaded is the undefined fetch, whatever else the state holds. -/
theorem step_of_imem_nil {s : State} (haligned : pcAligned s = true) (h : s.imem = []) :
    step s = .fault .fetchUndefined :=
  (stuckFetchStops s).2 haligned (.inl (readMem_of_imem_nil h s.pc))

/-! ### The reset state (R120, R121) -/

/-- Each cell holds its own free value at reset (log 3). -/
theorem State.reset_bank_getElem (k : Fin 41) : State.reset.bank[k] = Config.unknownAtReset k.val :=
  Vector.getElem_ofFn k.isLt

/-- Supervisor mode has no premise of its own, and EL3 is present, so either Security state is allowed (R29). -/
theorem modeOk_reset : State.reset.modeOk = true :=
  State.reset.modeOk_iff.mpr ⟨nofun, nofun, .inl rfl⟩

/-- Address 0 is aligned for A32 (R33). -/
theorem pcAligned_reset : pcAligned State.reset = true := rfl

/-- Settles O34: the three premises, of which the one on memory stands with the laws of instruction memory. -/
theorem resetIsWellFormed : Obligations.ResetIsWellFormed :=
  State.reset.wellFormed_iff.mpr ⟨modeOk_reset, pcAligned_reset, wf_reset⟩

/-- Settles O35: the control state is read off the reset state, and its empty memory leaves the first fetch stuck. -/
theorem resetControlState : Obligations.ResetControlState :=
  ⟨rfl, rfl, rfl, rfl, rfl, rfl, rfl, rfl, rfl, rfl, State.reset_bank_getElem, step_of_imem_nil pcAligned_reset rfl⟩

end Sys2Proof.Machine
/-! SUPPORT. Proofs of the family other: the fixed words of 95_test_vectors, read back by the laws of the decoder. -/

namespace Sys2Proof

/-- Settles O6: the bytes of the four words are those the encoder gives, which the decoder reads back (O3), and the
fifth word has `1111` where a condition would be (R55). -/
theorem specWordsDecode : Obligations.SpecWordsDecode := by
  refine ⟨?mrsA32, ?msrA32, ?mrsT32, ?msrT32, ?noCondition⟩
  case mrsA32 => exact decode_encodeBytes_ofWord (.mrsA1 .al 0 0 0) ⟨0, 0b10011⟩
  case msrA32 => exact decode_encodeBytes_ofWord (.msrA1 .ge 4 0b1111 0) ⟨1, 0b11110⟩
  case mrsT32 => exact decode_encodeBytes_ofWord (.mrsT1 10 0 0 0) ⟨0, 0b11110⟩
  case msrT32 => exact decode_encodeBytes_ofWord (.msrT1 13 0 0 0) ⟨0, 0b10011⟩
  case noCondition => exact (decode_a32_bytesOfWord 0xF1030300).trans (decodeA32_of_top_ones rfl)

end Sys2Proof
